-- ==== Sys2Proof/Word.lean ====
section
/-! DEFINITION. The widths of spec/00_scope.md R6, the seven kind names of R11, and the two bundles of ports of
spec/10_state.md R27 (inputs of one request) and R28 (outputs of one cycle). Every value is unsigned (R8). -/

namespace Sys2Proof

/-- 2-bit unsigned value (`slen_in`, R27). -/
abbrev U2 := BitVec 2
/-- 3-bit unsigned value (`len_in`, `err`, `nbytes_out`, R27 and R28). -/
abbrev U3 := BitVec 3
/-- 4-bit unsigned value: Channel, Cable Number, CIN, kind, class code, `op` (R6, R8). -/
abbrev U4 := BitVec 4
/-- 7-bit unsigned value: Note, Velocity, Pressure, Program, Control, a pitch-bend half (R6, R8). -/
abbrev U7 := BitVec 7
/-- 8-bit unsigned value: status, data and header bytes (R6, R8). -/
abbrev Byte := BitVec 8

/-- The seven channel-voice kinds `CV_KINDS` (R11; seven and not six by spec/90_conflicts.md C1). -/
inductive Kind where
  | noteOff | noteOn | polyAftertouch | controlChange | programChange | channelAftertouch | pitchBend
  deriving DecidableEq, Repr

/-- The operation select and the operand ports of one request (spec/10_state.md R27). `clk` is the step itself;
`rst` and `req_valid` belong to the host's cycle (`Machine.Cycle`). -/
structure Request where
  op    : U4
  cable : U4
  kind  : U4
  slen  : U2
  chan  : U4
  d1    : U7
  d2    : U7
  byte  : Byte
  pkt0  : Byte
  pkt1  : Byte
  pkt2  : Byte
  pkt3  : Byte
  len   : U3
  deriving DecidableEq, Repr

/-- The request whose every port is 0 (an encoder's starting point; `op` 0x0 is reserved, R60). -/
def Request.zero : Request :=
  { op := 0, cable := 0, kind := 0, slen := 0, chan := 0, d1 := 0, d2 := 0, byte := 0,
    pkt0 := 0, pkt1 := 0, pkt2 := 0, pkt3 := 0, len := 0 }

/-- The output ports in one cycle (spec/10_state.md R28). -/
structure OutPorts where
  rspValid : Bool
  err      : U3
  errByte  : Byte
  cin      : U4
  cable    : U4
  kind     : U4
  chan     : U4
  d1       : U7
  d2       : U7
  pkt0     : Byte
  pkt1     : Byte
  pkt2     : Byte
  pkt3     : Byte
  nbytes   : U3
  val      : Byte
  deriving DecidableEq, Repr, Inhabited

end Sys2Proof
end

