-- ==== Sys2Proof/Config.lean ====
section
/-! DEFINITION. The two build parameters of spec/00_scope.md R7 and the free values of the output ports. -/

namespace Sys2Proof

/-- The parameters fixed when the unit is built (R7, spec/10_state.md R23). The model takes them as an argument: a
state carries them and no step changes them (assumption log 1). -/
structure Params where
  /-- `P_DECODE_KINDS`: the kinds the raw decoder recognises. -/
  decodeKinds : List Kind
  /-- `P_LATENCY`: cycles from acceptance to response; 0 is combinational. -/
  latency : Nat
  deriving DecidableEq, Repr

/-- The values this spec takes (R7): all seven kinds, latency 0. -/
def Config.specParams : Params :=
  { decodeKinds := [.noteOff, .noteOn, .polyAftertouch, .controlChange, .programChange, .channelAftertouch, .pitchBend]
    latency := 0 }

/-- FREE VALUE (assumption log 4). What the output ports hold where the spec says "any value": at the `n`-th draw, any
value on every port. It has no body, so nothing can be proved of it (spec/10_state.md R28, R29; spec/60_exceptions.md
R222, R223; spec/20_memory.md R41). -/
opaque Config.freePorts : Nat → OutPorts

end Sys2Proof
end

