-- ==== Sys2Proof/Syntax.lean ====
section
/-! DEFINITION. The instructions: one constructor per row of spec/opcode_table.json, with the operands its row names. -/

namespace Sys2Proof

/-- The operations of format CMD carry the inputs spec/30_encoding.md R61 says they read; the packet rows of format PKT
carry the fields of R62 and R64 (`cable`, `cin`, `chan`, then packet bytes 2 and 3). -/
inductive Instr where
  /-- CLASSIFY, `op` 0x1 (R121). -/
  | classify (kind : U4) (slen : U2)
  /-- RAW_ENC, `op` 0x2 (R140). -/
  | rawEnc (kind chan : U4) (d1 d2 : U7)
  /-- RAW_DEC, `op` 0x3 (R150): raw bytes 0..2 and the valid count. -/
  | rawDec (b0 b1 b2 : Byte) (len : U3)
  /-- PKT_ENC, `op` 0x4 (R190). -/
  | pktEnc (cable kind chan : U4) (d1 d2 : U7)
  /-- PKT_DEC, `op` 0x5 (R194): packet bytes 0..3 and the valid count. -/
  | pktDec (b0 b1 b2 b3 : Byte) (len : U3)
  /-- NOTE_STRICT, `op` 0x6 (R100). -/
  | noteStrict (b : Byte)
  /-- U7_CLAMP, `op` 0x7 (R101). -/
  | u7Clamp (b : Byte)
  /-- CABLE_STRICT, `op` 0x8 (R102). -/
  | cableStrict (b : Byte)
  /-- CHAN_OF_STATUS, `op` 0x9 (R103). -/
  | chanOfStatus (b : Byte)
  /-- Reserved `op` 0x0 (R71, R225). -/
  | reservedOp0
  /-- Reserved `op` 0xA (R71, R225). -/
  | reservedOpA
  /-- Reserved `op` 0xB (R71, R225). -/
  | reservedOpB
  /-- Reserved `op` 0xC (R71, R225). -/
  | reservedOpC
  /-- Reserved `op` 0xD (R71, R225). -/
  | reservedOpD
  /-- Reserved `op` 0xE (R71, R225). -/
  | reservedOpE
  /-- Reserved `op` 0xF (R71, R225). -/
  | reservedOpF
  /-- PKT.NoteOff: a complete packet whose status nibble is 0x8 (R152). -/
  | pktNoteOff (cable cin chan : U4) (note velocity : Byte)
  /-- PKT.NoteOn: status nibble 0x9 (R153). -/
  | pktNoteOn (cable cin chan : U4) (note velocity : Byte)
  /-- PKT.PolyAftertouch: status nibble 0xA (R154). -/
  | pktPolyAftertouch (cable cin chan : U4) (note pressure : Byte)
  /-- PKT.ControlChange: status nibble 0xB (R155). -/
  | pktControlChange (cable cin chan : U4) (control value : Byte)
  /-- PKT.ProgramChange: status nibble 0xC (R156); byte 3 is padding. -/
  | pktProgramChange (cable cin chan : U4) (program pad : Byte)
  /-- PKT.ChannelAftertouch: status nibble 0xD (R157); byte 3 is padding. -/
  | pktChannelAftertouch (cable cin chan : U4) (pressure pad : Byte)
  /-- PKT.PitchBend: status nibble 0xE (R158). -/
  | pktPitchBend (cable cin chan : U4) (lsb msb : Byte)
  deriving DecidableEq, Repr

end Sys2Proof
end

