-- ==== Sys2Proof/WellFormed.lean ====
section
/-! DEFINITION. Which instruction terms are the reading of some request. Every operand is in range by its width
(spec/40_primitives.md R105), so one check is left: a PKT_DEC request that carries a complete packet of a channel-voice
kind is written as the packet row of that kind, so that each request has one reading. -/

namespace Sys2Proof

/-- The status byte's top nibble is one of `CV_KINDS`, 0x8 to 0xE (spec/00_scope.md R11, spec/30_encoding.md R66). -/
def isVoiceStatus (status : Byte) : Bool :=
  0x80 ≤ status.toNat && status.toNat < 0xF0

/-- All four lanes are valid: `len_in` of 4 or more counts as 4 (spec/20_memory.md R40). -/
def isComplete (len : U3) : Bool :=
  4 ≤ len.toNat

/-- The well-formed instructions: exactly those that decoding some request gives. -/
def Instr.wf : Instr → Bool
  | .classify _ _ => true
  | .rawEnc _ _ _ _ => true
  | .rawDec _ _ _ _ => true
  | .pktEnc _ _ _ _ _ => true
  | .pktDec _ b1 _ _ len => !(isComplete len && isVoiceStatus b1)
  | .noteStrict _ => true
  | .u7Clamp _ => true
  | .cableStrict _ => true
  | .chanOfStatus _ => true
  | .reservedOp0 => true
  | .reservedOpA => true
  | .reservedOpB => true
  | .reservedOpC => true
  | .reservedOpD => true
  | .reservedOpE => true
  | .reservedOpF => true
  | .pktNoteOff _ _ _ _ _ => true
  | .pktNoteOn _ _ _ _ _ => true
  | .pktPolyAftertouch _ _ _ _ _ => true
  | .pktControlChange _ _ _ _ _ => true
  | .pktProgramChange _ _ _ _ _ => true
  | .pktChannelAftertouch _ _ _ _ _ => true
  | .pktPitchBend _ _ _ _ _ => true

end Sys2Proof
end

