-- ==== Sys2Proof/Decode.lean ====
section
/-! DEFINITION. Bit fields (spec/20_memory.md R43, spec/30_encoding.md R65), the kind nibbles (R66), the opcode table's
rows, the decoder from a request's ports to an instruction, and the encoder back. Every request decodes: a reserved `op`
has a row of its own (R71), and PKT_DEC takes any bytes (spec/10_state.md R33). -/

namespace Sys2Proof

/-! ### Fields -/

/-- Bits 7:4 of a byte. -/
def hiNibble (b : Byte) : U4 := b.extractLsb' 4 4

/-- Bits 3:0 of a byte. -/
def loNibble (b : Byte) : U4 := b.extractLsb' 0 4

/-- Bits 6:0 of a byte. -/
def lowSeven (b : Byte) : U7 := b.extractLsb' 0 7

/-- A byte of two nibbles, `{hi, lo}` (R8); the header byte `(cable << 4) | cin` and the status byte
`(kind << 4) | chan` (R43, R65). -/
def joinNibbles (hi lo : U4) : Byte := hi ++ lo

/-- `zext_8` of a 7-bit value (R8). -/
def zextSeven (v : U7) : Byte := v.setWidth 8

/-- `zext_8` of a 4-bit value (R8). -/
def zextNibble (v : U4) : Byte := v.setWidth 8

/-! ### Kinds -/

/-- The status-byte nibble of a kind (R11, R66); 0xB for ControlChange by spec/90_conflicts.md C1. -/
def kindNibble : Kind → U4
  | .noteOff => 0x8
  | .noteOn => 0x9
  | .polyAftertouch => 0xA
  | .controlChange => 0xB
  | .programChange => 0xC
  | .channelAftertouch => 0xD
  | .pitchBend => 0xE

/-- The kind a nibble names; none for 0x0..0x7 and 0xF (R66). -/
def kindOfNibble (n : U4) : Option Kind :=
  match n.toNat with
  | 8 => some .noteOff
  | 9 => some .noteOn
  | 10 => some .polyAftertouch
  | 11 => some .controlChange
  | 12 => some .programChange
  | 13 => some .channelAftertouch
  | 14 => some .pitchBend
  | _ => none

/-- `nData(kind)`: how many data values a message of the kind has (spec/10_state.md R30). -/
def nData : Kind → Nat
  | .noteOff => 2
  | .noteOn => 2
  | .polyAftertouch => 2
  | .controlChange => 2
  | .programChange => 1
  | .channelAftertouch => 1
  | .pitchBend => 2

/-- The status byte of a kind on a channel (R43, R62). -/
def statusByte (k : Kind) (chan : U4) : Byte := joinNibbles (kindNibble k) chan

/-! ### Decoding -/

/-- The packet row of a complete packet, by its status nibble (R62, R64, R66); none where the nibble is no kind. -/
def packetRow (b0 b1 b2 b3 : Byte) : Option Instr :=
  match kindOfNibble (hiNibble b1) with
  | some .noteOff => some (.pktNoteOff (hiNibble b0) (loNibble b0) (loNibble b1) b2 b3)
  | some .noteOn => some (.pktNoteOn (hiNibble b0) (loNibble b0) (loNibble b1) b2 b3)
  | some .polyAftertouch => some (.pktPolyAftertouch (hiNibble b0) (loNibble b0) (loNibble b1) b2 b3)
  | some .controlChange => some (.pktControlChange (hiNibble b0) (loNibble b0) (loNibble b1) b2 b3)
  | some .programChange => some (.pktProgramChange (hiNibble b0) (loNibble b0) (loNibble b1) b2 b3)
  | some .channelAftertouch => some (.pktChannelAftertouch (hiNibble b0) (loNibble b0) (loNibble b1) b2 b3)
  | some .pitchBend => some (.pktPitchBend (hiNibble b0) (loNibble b0) (loNibble b1) b2 b3)
  | none => none

/-- A PKT_DEC request: the packet row of a complete packet of a channel-voice kind, PKT_DEC itself for every other
packet (too short, or a status nibble with no row). The two readings answer alike (assumption log 6). -/
def decodePacket (b0 b1 b2 b3 : Byte) (len : U3) : Instr :=
  if isComplete len then (packetRow b0 b1 b2 b3).getD (.pktDec b0 b1 b2 b3 len) else .pktDec b0 b1 b2 b3 len

/-- The instruction a request asks for: `op` picks the row (R60), and the row's own inputs are its operands (R61). -/
def decode (r : Request) : Instr :=
  match r.op.toNat with
  | 0 => .reservedOp0
  | 1 => .classify r.kind r.slen
  | 2 => .rawEnc r.kind r.chan r.d1 r.d2
  | 3 => .rawDec r.pkt0 r.pkt1 r.pkt2 r.len
  | 4 => .pktEnc r.cable r.kind r.chan r.d1 r.d2
  | 5 => decodePacket r.pkt0 r.pkt1 r.pkt2 r.pkt3 r.len
  | 6 => .noteStrict r.byte
  | 7 => .u7Clamp r.byte
  | 8 => .cableStrict r.byte
  | 9 => .chanOfStatus r.byte
  | 10 => .reservedOpA
  | 11 => .reservedOpB
  | 12 => .reservedOpC
  | 13 => .reservedOpD
  | 14 => .reservedOpE
  | _ => .reservedOpF

/-! ### Encoding -/

/-- A packet handed to PKT_DEC whole: `op` 0x5, the four lanes, `len_in = 4`. -/
def packetRequest (b0 b1 b2 b3 : Byte) : Request :=
  { Request.zero with op := 0x5, pkt0 := b0, pkt1 := b1, pkt2 := b2, pkt3 := b3, len := 4 }

/-- A packet of a kind handed to PKT_DEC whole (R62). -/
def rowRequest (k : Kind) (cable cin chan : U4) (data1 data2 : Byte) : Request :=
  packetRequest (joinNibbles cable cin) (statusByte k chan) data1 data2

/-- The request that asks for an instruction: its `op` (R60) and the inputs its row reads (R61, R62, R64); an input the
row does not read is 0. -/
def encode : Instr → Request
  | .classify kind slen => { Request.zero with op := 0x1, kind := kind, slen := slen }
  | .rawEnc kind chan d1 d2 => { Request.zero with op := 0x2, kind := kind, chan := chan, d1 := d1, d2 := d2 }
  | .rawDec b0 b1 b2 len => { Request.zero with op := 0x3, pkt0 := b0, pkt1 := b1, pkt2 := b2, len := len }
  | .pktEnc cable kind chan d1 d2 =>
    { Request.zero with op := 0x4, cable := cable, kind := kind, chan := chan, d1 := d1, d2 := d2 }
  | .pktDec b0 b1 b2 b3 len =>
    { Request.zero with op := 0x5, pkt0 := b0, pkt1 := b1, pkt2 := b2, pkt3 := b3, len := len }
  | .noteStrict b => { Request.zero with op := 0x6, byte := b }
  | .u7Clamp b => { Request.zero with op := 0x7, byte := b }
  | .cableStrict b => { Request.zero with op := 0x8, byte := b }
  | .chanOfStatus b => { Request.zero with op := 0x9, byte := b }
  | .reservedOp0 => { Request.zero with op := 0x0 }
  | .reservedOpA => { Request.zero with op := 0xA }
  | .reservedOpB => { Request.zero with op := 0xB }
  | .reservedOpC => { Request.zero with op := 0xC }
  | .reservedOpD => { Request.zero with op := 0xD }
  | .reservedOpE => { Request.zero with op := 0xE }
  | .reservedOpF => { Request.zero with op := 0xF }
  | .pktNoteOff cable cin chan note velocity => rowRequest .noteOff cable cin chan note velocity
  | .pktNoteOn cable cin chan note velocity => rowRequest .noteOn cable cin chan note velocity
  | .pktPolyAftertouch cable cin chan note pressure => rowRequest .polyAftertouch cable cin chan note pressure
  | .pktControlChange cable cin chan control value => rowRequest .controlChange cable cin chan control value
  | .pktProgramChange cable cin chan program pad => rowRequest .programChange cable cin chan program pad
  | .pktChannelAftertouch cable cin chan pressure pad => rowRequest .channelAftertouch cable cin chan pressure pad
  | .pktPitchBend cable cin chan lsb msb => rowRequest .pitchBend cable cin chan lsb msb

/-! ### The opcode table -/

/-- The two formats of spec/opcode_table.json. -/
inductive Format where
  | cmd | pkt
  deriving DecidableEq, Repr

/-- One row of spec/opcode_table.json: its format, `match` and `mask`. -/
structure Row where
  mnemonic : String
  format   : Format
  pattern  : BitVec 32
  mask     : BitVec 32
  deriving DecidableEq, Repr

/-- The rows of format CMD, the nine operations. -/
def operationRows : List Row :=
  [⟨"CLASSIFY", .cmd, 0x1, 0xF⟩, ⟨"RAW_ENC", .cmd, 0x2, 0xF⟩, ⟨"RAW_DEC", .cmd, 0x3, 0xF⟩,
   ⟨"PKT_ENC", .cmd, 0x4, 0xF⟩, ⟨"PKT_DEC", .cmd, 0x5, 0xF⟩, ⟨"NOTE_STRICT", .cmd, 0x6, 0xF⟩,
   ⟨"U7_CLAMP", .cmd, 0x7, 0xF⟩, ⟨"CABLE_STRICT", .cmd, 0x8, 0xF⟩, ⟨"CHAN_OF_STATUS", .cmd, 0x9, 0xF⟩]

/-- The rows of format CMD, the seven reserved `op` values (R71). -/
def reservedRows : List Row :=
  [⟨"reserved_op_0x0", .cmd, 0x0, 0xF⟩, ⟨"reserved_op_0xA", .cmd, 0xA, 0xF⟩, ⟨"reserved_op_0xB", .cmd, 0xB, 0xF⟩,
   ⟨"reserved_op_0xC", .cmd, 0xC, 0xF⟩, ⟨"reserved_op_0xD", .cmd, 0xD, 0xF⟩, ⟨"reserved_op_0xE", .cmd, 0xE, 0xF⟩,
   ⟨"reserved_op_0xF", .cmd, 0xF, 0xF⟩]

/-- The rows of format PKT, over the 32-bit view of the packet (R45). -/
def packetRows : List Row :=
  [⟨"PKT.NoteOff", .pkt, 0x00800000, 0x00F00000⟩, ⟨"PKT.NoteOn", .pkt, 0x00900000, 0x00F00000⟩,
   ⟨"PKT.PolyAftertouch", .pkt, 0x00A00000, 0x00F00000⟩, ⟨"PKT.ControlChange", .pkt, 0x00B00000, 0x00F00000⟩,
   ⟨"PKT.ProgramChange", .pkt, 0x00C00000, 0x00F00000⟩, ⟨"PKT.ChannelAftertouch", .pkt, 0x00D00000, 0x00F00000⟩,
   ⟨"PKT.PitchBend", .pkt, 0x00E00000, 0x00F00000⟩]

/-- spec/opcode_table.json. -/
def opcodeTable : List Row := operationRows ++ reservedRows ++ packetRows

/-- The mnemonic of an instruction's row. -/
def mnemonic : Instr → String
  | .classify _ _ => "CLASSIFY"
  | .rawEnc _ _ _ _ => "RAW_ENC"
  | .rawDec _ _ _ _ => "RAW_DEC"
  | .pktEnc _ _ _ _ _ => "PKT_ENC"
  | .pktDec _ _ _ _ _ => "PKT_DEC"
  | .noteStrict _ => "NOTE_STRICT"
  | .u7Clamp _ => "U7_CLAMP"
  | .cableStrict _ => "CABLE_STRICT"
  | .chanOfStatus _ => "CHAN_OF_STATUS"
  | .reservedOp0 => "reserved_op_0x0"
  | .reservedOpA => "reserved_op_0xA"
  | .reservedOpB => "reserved_op_0xB"
  | .reservedOpC => "reserved_op_0xC"
  | .reservedOpD => "reserved_op_0xD"
  | .reservedOpE => "reserved_op_0xE"
  | .reservedOpF => "reserved_op_0xF"
  | .pktNoteOff _ _ _ _ _ => "PKT.NoteOff"
  | .pktNoteOn _ _ _ _ _ => "PKT.NoteOn"
  | .pktPolyAftertouch _ _ _ _ _ => "PKT.PolyAftertouch"
  | .pktControlChange _ _ _ _ _ => "PKT.ControlChange"
  | .pktProgramChange _ _ _ _ _ => "PKT.ProgramChange"
  | .pktChannelAftertouch _ _ _ _ _ => "PKT.ChannelAftertouch"
  | .pktPitchBend _ _ _ _ _ => "PKT.PitchBend"

/-- `PKT32`, a packet written as one number (R45). -/
def packetWord (b0 b1 b2 b3 : Byte) : BitVec 32 := b0 ++ b1 ++ b2 ++ b3

/-- A request as the word its table row matches: the packet as one number in format PKT, `op` in format CMD. -/
def tableWord (f : Format) (r : Request) : BitVec 32 :=
  match f with
  | .cmd => r.op.setWidth 32
  | .pkt => packetWord r.pkt0 r.pkt1 r.pkt2 r.pkt3

/-- A word matches a row. -/
def Row.accepts (row : Row) (w : BitVec 32) : Bool := w &&& row.mask == row.pattern

/-- The rows of a format that a word matches. -/
def rowsOf (f : Format) (w : BitVec 32) : List Row :=
  opcodeTable.filter fun row => row.format == f && row.accepts w

/-! ### Words numbered as the opcode table numbers them -/

/-- The request whose table word is `w`. A row of format PKT has 32 bits: `w` is PKT32, byte 0 in its top byte (R45),
handed to PKT_DEC whole. A row of format CMD has fewer: `w`'s low four bits are `op`, and every operand port is 0. -/
def tableRequest (nbits w : Nat) : Request :=
  if nbits < 32 then { Request.zero with op := BitVec.ofNat 4 w }
  else packetRequest (BitVec.ofNat 8 (w / 0x1000000)) (BitVec.ofNat 8 (w / 0x10000)) (BitVec.ofNat 8 (w / 0x100))
    (BitVec.ofNat 8 w)

/-- The instruction the decoder reads from a table word. -/
def decodeTableWord (nbits w : Nat) : Option Instr := some (decode (tableRequest nbits w))

end Sys2Proof
end

