-- ==== Sys2Proof/Machine/State.lean ====
section
/-! DEFINITION. The machine's state (spec/10_state.md R32, R34), the responses it records, the host's cycles, and the
reasons a step could stop. The unit has no register, no program counter, no flag and no memory (R20 to R26). -/

namespace Sys2Proof.Machine

/-- A message as it crosses the ports: four fields (R30). -/
structure Message where
  kind : Kind
  chan : U4
  d1   : U7
  d2   : U7
  deriving DecidableEq, Repr

/-- The recoverable errors with their payload bytes (spec/60_exceptions.md R220, R222). -/
inductive Err where
  | missingDataPacket
  | invalidEventType (status : Byte)
  | invalidNote (b : Byte)
  | invalidCableNumber (b : Byte)
  deriving DecidableEq, Repr

/-- The reasons of a defect (R224). -/
inductive Defect where
  | unrenderableMessage | undeterminedLength | unknownClass
  deriving DecidableEq, Repr

/-- The faults of R221: a defect, or a reserved `op` (R225). A fault is a response; it does not stop the unit (R224). -/
inductive FaultReason where
  | defect (d : Defect)
  | illegalOp (op : U4)
  deriving DecidableEq, Repr

/-- The outputs an operation defines when it ends in OK (spec/30_encoding.md R61): only those ports. -/
inductive Outputs where
  /-- CLASSIFY: `cin_out`. -/
  | cin (c : U4)
  /-- RAW_ENC: `pkt_out0..2` and `nbytes_out`. -/
  | raw (b0 b1 b2 : Byte) (nbytes : U3)
  /-- RAW_DEC: `kind_out`, `chan_out`, `d1_out`, `d2_out`. -/
  | message (m : Message)
  /-- PKT_ENC: `pkt_out0..3` and `nbytes_out`. -/
  | packet (b0 b1 b2 b3 : Byte) (nbytes : U3)
  /-- PKT_DEC: `cable_out` and the message. -/
  | cabled (cable : U4) (m : Message)
  /-- The primitives: `val_out`. -/
  | value (v : Byte)
  deriving DecidableEq, Repr

/-- A `Response` (R32): `Ok(outputs)`, `Err(code, payload)` or `Fault(reason)`. -/
inductive Response where
  | ok (o : Outputs)
  | err (e : Err)
  | fault (f : FaultReason)
  deriving DecidableEq, Repr

/-- What the host drives in one cycle (R27, R29): reset, the request-valid bit, and the request ports. `held` says that
the host keeps the inputs stable while it samples the outputs, its duty with a combinational unit
(spec/70_reset_and_hazards.md R255). DESIGN CHOICE (assumption log 5): on a combinational unit `reqValid = false` says
that `req_valid` is 0 throughout the cycle, and `held` is then not read. PRESUMED (assumption log 10): with `P_LATENCY > 0`
`held` is never read. -/
structure Cycle where
  rst      : Bool
  reqValid : Bool
  held     : Bool
  req      : Request
  deriving DecidableEq, Repr

/-- An accepted request not yet answered (R29): its captured inputs, and how many rising edges are left until its
response. -/
structure InFlight where
  left : Nat
  req  : Request
  deriving DecidableEq, Repr

/-- What the unit does with its outputs in one cycle (R29): it answers a request; it answers none (`rsp_valid = 0`); or
it is combinational and its inputs change while it is sampled (R255). -/
inductive Service where
  | answer (r : Request)
  | quiet
  | unsettled
  deriving DecidableEq, Repr

/-- The machine's state. `responses`, `faulted` and `inflight` are the state of R32; `out` is what the output ports
hold in the present cycle (R28). `params` holds the build parameters (R7, R23), which no step changes. `host` is what
the host will drive, one entry a cycle, and `draws` numbers the next free value: these two are the model's own
(assumption log 2 and 4). -/
structure State where
  params    : Params
  host      : List Cycle
  inflight  : List InFlight
  responses : List Response
  faulted   : Bool
  out       : OutPorts
  draws     : Nat
  deriving DecidableEq, Repr

/-- The reasons for which a step stops the machine: there is none. The unit answers every request, an error or a fault
being a response like any other, and serves the next one (R224, R230; assumption log 3). -/
inductive Fault where
  deriving DecidableEq, Repr

/-- The reasons for which an instruction has no meaning. -/
inductive Refusal where
  /-- Raised by an arm of `exec` whose instruction has no meaning in the model; safe: the machine stops. No arm of this
  model raises it. -/
  | notModelled (mnemonic : String)
  deriving DecidableEq, Repr

/-- The machine at the start of every run (R34): no response recorded, not faulted, nothing in flight, `rsp_valid` 0
and every other output any value; built with the parameters this spec takes (R7); the host has no cycle scripted. -/
def State.reset : State :=
  { params := Config.specParams
    host := []
    inflight := []
    responses := []
    faulted := false
    out := { Config.freePorts 0 with rspValid := false }
    draws := 1 }

end Sys2Proof.Machine
end

