-- ==== Sys2Proof/Machine/Flags.lean ====
section
/-! DEFINITION. The unit has no status flags (spec/10_state.md R22). What stands in their place are the outcome outputs
of one response, `err` and `err_byte` (spec/60_exceptions.md R221, R222), and the driving of the output ports. -/

namespace Sys2Proof.Machine

/-- The response is a fault (R221: `err` 5 or 6). -/
def isFault : Response → Bool
  | .ok _ => false
  | .err _ => false
  | .fault _ => true

/-- The `err` code of a recoverable error (R221). -/
def errorCode : Err → U3
  | .missingDataPacket => 1
  | .invalidEventType _ => 2
  | .invalidNote _ => 3
  | .invalidCableNumber _ => 4

/-- The `err` code of a fault (R221). -/
def faultCode : FaultReason → U3
  | .defect _ => 5
  | .illegalOp _ => 6

/-- `err` (R221). -/
def errCode : Response → U3
  | .ok _ => 0
  | .err e => errorCode e
  | .fault f => faultCode f

/-- The payload byte of an error; none where it carries none (R220, R222). -/
def errorByte : Err → Option Byte
  | .missingDataPacket => none
  | .invalidEventType status => some status
  | .invalidNote b => some b
  | .invalidCableNumber b => some b

/-- The reason code of a defect (R222). -/
def defectCode : Defect → Byte
  | .unrenderableMessage => 1
  | .undeterminedLength => 2
  | .unknownClass => 3

/-- The payload byte of a fault: the reason code, or `zext_8(op)` (R222, R225). -/
def faultByte : FaultReason → Byte
  | .defect d => defectCode d
  | .illegalOp op => zextNibble op

/-- `err_byte` where the outcome defines it (R222); none where it is any value. -/
def errPayload : Response → Option Byte
  | .ok _ => none
  | .err e => errorByte e
  | .fault f => some (faultByte f)

/-- The four message ports (R28, R30). -/
def driveMessage (p : OutPorts) (m : Message) : OutPorts :=
  { p with kind := kindNibble m.kind, chan := m.chan, d1 := m.d1, d2 := m.d2 }

/-- The ports an operation defines when it ends in OK (spec/30_encoding.md R61), over any values on the rest. -/
def driveOutputs (p : OutPorts) : Outputs → OutPorts
  | .cin c => { p with cin := c }
  | .raw b0 b1 b2 nbytes => { p with pkt0 := b0, pkt1 := b1, pkt2 := b2, nbytes := nbytes }
  | .message m => driveMessage p m
  | .packet b0 b1 b2 b3 nbytes => { p with pkt0 := b0, pkt1 := b1, pkt2 := b2, pkt3 := b3, nbytes := nbytes }
  | .cabled cable m => driveMessage { p with cable := cable } m
  | .value v => { p with val := v }

/-- The outputs a response defines beside `rsp_valid`, `err` and `err_byte`: none after an error or a fault (R223). -/
def driveResult (p : OutPorts) : Response → OutPorts
  | .ok o => driveOutputs p o
  | .err _ => p
  | .fault _ => p

/-- The output ports of a cycle that presents a response, `free` being any value on the ports it does not define
(spec/10_state.md R28, R29). -/
def drive (free : OutPorts) (r : Response) : OutPorts :=
  { driveResult free r with rspValid := true, err := errCode r, errByte := (errPayload r).getD free.errByte }

end Sys2Proof.Machine
end

