-- ==== Sys2Proof/Machine/Operands.lean ====
section
/-! DEFINITION. How an operation reads and checks its operands: `Get`, `clamp7` (spec/00_scope.md R9), the strict
checks (spec/40_primitives.md R100, R102) and the message bus (spec/10_state.md R30, R31). -/

namespace Sys2Proof.Machine

/-- `Get(buf, n, i)`: the byte at `i` where `i < n`, else `MissingDataPacket`; never a lane at or past `n` (R9,
spec/20_memory.md R40). -/
def getByte (buf : List Byte) (n i : Nat) : Except Err Byte :=
  if i < n then
    match buf[i]? with
    | some b => .ok b
    | none => .error .missingDataPacket
  else .error .missingDataPacket

/-- The valid count: `min(len_in, lanes)` (spec/20_memory.md R40). -/
def validCount (len : U3) (lanes : Nat) : Nat := min len.toNat lanes

/-- `clamp7`: saturation, not masking (R9, spec/40_primitives.md R101). -/
def clamp7 (b : Byte) : U7 := if 0x7F < b.toNat then 0x7F else lowSeven b

/-- The strict conversion of a byte to a Note (spec/40_primitives.md R100, spec/42_raw_codec.md R159). -/
def strictNote (b : Byte) : Except Err U7 := if 0x7F < b.toNat then .error (.invalidNote b) else .ok (lowSeven b)

/-- The strict conversion of a byte to a Cable Number (spec/40_primitives.md R102). -/
def strictCable (b : Byte) : Except Err U4 :=
  if 0x0F < b.toNat then .error (.invalidCableNumber b) else .ok (loNibble b)

/-- The kind a status nibble selects, where the unit decodes it: `k in P_DECODE_KINDS` (spec/42_raw_codec.md R150,
R151). -/
def recognised (kinds : List Kind) (nibble : U4) : Option Kind :=
  match kindOfNibble nibble with
  | some k => if k ∈ kinds then some k else none
  | none => none

/-- Equality of messages: `d2` of a kind with one data value takes no part (R30). -/
def sameMessage (a b : Message) : Prop :=
  a.kind = b.kind ∧ a.chan = b.chan ∧ a.d1 = b.d1 ∧ (nData a.kind = 2 → a.d2 = b.d2)

/-- The 14-bit pitch-bend value, `(d2 << 7) | d1`: a view of the two halves that no port carries (R31). -/
def pitchBend14 (m : Message) : BitVec 14 := m.d2 ++ m.d1

end Sys2Proof.Machine
end

