-- ==== Sys2Proof/Machine/Ops.lean ====
section
/-! DEFINITION. The named operations over the state: presenting a response (an error or a fault among them: the one way
the unit takes one, spec/60_exceptions.md R223, R224, R229), a cycle without one, and the pipeline of
spec/10_state.md R29. There is no return from an error or a fault (R230). -/

namespace Sys2Proof.Machine

/-- The unit presents a response (spec/10_state.md R32): it is recorded, a fault marks the run, and the ports show it.
Ports the response leaves undefined hold the next free value. -/
def State.respond (s : State) (r : Response) : State :=
  { s with
    responses := s.responses ++ [r]
    faulted := s.faulted || isFault r
    out := drive (Config.freePorts s.draws) r
    draws := s.draws + 1 }

/-- An operation that ends in OK with the given outputs, or in `raise Err` (R9, R10, R223). -/
def responseOf : Except Err Outputs → Response
  | .ok o => .ok o
  | .error e => .err e

/-- An operation that ends in OK with the given outputs, or in `raise Fault` of a defect (R9, R224). -/
def responseOrDefect : Except Defect Outputs → Response
  | .ok o => .ok o
  | .error d => .fault (.defect d)

/-- A cycle that presents no response: `rsp_valid = 0` and every other output is any value (R29). -/
def State.quiet (s : State) : State :=
  { s with out := { Config.freePorts s.draws with rspValid := false }, draws := s.draws + 1 }

/-- A combinational unit whose inputs change while it is sampled: every output is any value
(spec/70_reset_and_hazards.md R255). No response is recorded (assumption log 5). -/
def State.unsettled (s : State) : State :=
  { s with out := Config.freePorts s.draws, draws := s.draws + 1 }

/-! ### The host's cycles and the pipeline -/

/-- A cycle in which the host presents nothing. -/
def idleCycle : Cycle := { rst := false, reqValid := false, held := true, req := Request.zero }

/-- A cycle in which the host presents a request and holds it stable. -/
def presentCycle (r : Request) : Cycle := { rst := false, reqValid := true, held := true, req := r }

/-- What the host drives in this cycle; past the end of its script it presents nothing. -/
def State.now (s : State) : Cycle :=
  match s.host with
  | [] => idleCycle
  | c :: _ => c

/-- The host moves on to its next cycle. -/
def State.later (s : State) : State := { s with host := s.host.drop 1 }

/-- One rising edge passes for every request in flight. -/
def ageAll (q : List InFlight) : List InFlight := q.map fun e => { e with left := e.left - 1 }

/-- The request whose response falls in the cycle after this edge, if any: the oldest, when its last edge has come
(R29). -/
def dueNow : List InFlight → Option Request
  | [] => none
  | e :: _ => if e.left ≤ 1 then some e.req else none

/-- The queue after this edge, before acceptance: the request now answered leaves it. -/
def afterEdge : List InFlight → List InFlight
  | [] => []
  | e :: rest => if e.left ≤ 1 then ageAll rest else ageAll (e :: rest)

/-- Acceptance at a rising edge: with `req_valid = 1` all inputs are captured, to be answered `latency` edges later
(R29). PRESUMED (assumption log 10): they are those of the cycle, whatever `held` says. -/
def accept (latency : Nat) (c : Cycle) (q : List InFlight) : List InFlight :=
  if c.reqValid then q ++ [{ left := latency, req := c.req }] else q

/-- One cycle of a combinational unit, `P_LATENCY = 0` (R29; `rst` is ignored, spec/70_reset_and_hazards.md R250).
DESIGN CHOICE (assumption log 5): with `req_valid = 0` the cycle is quiet and `rsp_valid` 0, as R29 says, whether or not
the other inputs are held, although R255 calls an output sampled while the inputs change any value; a cycle in which
`req_valid` itself changes is one with `reqValid = true` and `held = false`. -/
def serviceNow (c : Cycle) : Service :=
  if c.reqValid then (if c.held then .answer c.req else .unsettled) else .quiet

/-- What the unit does in this cycle, and the state with the host and the pipeline moved on (R29, R250). -/
def State.cycle (s : State) : Service × State :=
  if s.params.latency = 0 then (serviceNow s.now, s.later)
  else if s.now.rst then (.quiet, { s.later with inflight := [] })
  else
    ((match dueNow s.inflight with
      | some r => .answer r
      | none => .quiet),
     { s.later with inflight := accept s.params.latency s.now (afterEdge s.inflight) })

/-- The host is about to hand the unit this request so that its response falls in the very next cycle: presented now by
the host where the unit is combinational, else in flight with one edge left, with no reset in the way. -/
def State.aboutToServe (s : State) (r : Request) : State :=
  if s.params.latency = 0 then { s with host := presentCycle r :: s.host }
  else
    { s with
      host := idleCycle :: s.host
      inflight := { left := 1, req := r } :: s.inflight.filter fun e => 1 < e.left }

end Sys2Proof.Machine
end

