-- ==== Sys2Proof/Machine/Classifier.lean ====
section
/-! DEFINITION. The CIN classifier: CLASSIFY (spec/41_cin_classifier.md R120 to R129). -/

namespace Sys2Proof.Machine

/-- The CIN of a System-Common message by its wire length; length 0 cannot be determined (R124). -/
def systemCommonCin (len : U2) : Except Defect U4 :=
  match len.toNat with
  | 1 => .ok 0x5
  | 2 => .ok 0x2
  | 3 => .ok 0x3
  | _ => .error .undeterminedLength

/-- The CIN of a SysEx end by its trailing byte count; count 0 cannot be determined (R126). -/
def sysexEndCin (count : U2) : Except Defect U4 :=
  match count.toNat with
  | 1 => .ok 0x5
  | 2 => .ok 0x6
  | 3 => .ok 0x7
  | _ => .error .undeterminedLength

/-- The CIN of a message class (R120, R121): a channel-voice class is its own CIN (R122), the single-byte class is 0xF
(R123), SysEx start or continuation is 0x4 (R125), and the codes 0x0 and 0x4..0x7 name no class (R127). -/
def classCin (c : U4) (len : U2) : Except Defect U4 :=
  match c.toNat with
  | 1 => systemCommonCin len
  | 2 => .ok 0x4
  | 3 => sysexEndCin len
  | 8 => .ok 0x8
  | 9 => .ok 0x9
  | 10 => .ok 0xA
  | 11 => .ok 0xB
  | 12 => .ok 0xC
  | 13 => .ok 0xD
  | 14 => .ok 0xE
  | 15 => .ok 0xF
  | _ => .error .unknownClass

/-- CLASSIFY's outcome. -/
def replyClassify (kind : U4) (slen : U2) : Except Defect Outputs :=
  do let cin ← classCin kind slen
     pure (.cin cin)

/-- `cinOf(kind)`, the CIN PKT_ENC writes: what CLASSIFY gives for the kind's class code, which is the kind's own nibble
(R122, R129). -/
def cinOf (k : Kind) : U4 := kindNibble k

/-- CLASSIFY (R121). -/
def execClassify (kind : U4) (slen : U2) (s : State) : Host.Outcome State Fault Refusal :=
  .next (s.respond (responseOrDefect (replyClassify kind slen)))

end Sys2Proof.Machine
end

