-- ==== Sys2Proof/Machine/RawCodec.lean ====
section
/-! DEFINITION. The channel-voice raw message codec: RAW_ENC and RAW_DEC (spec/42_raw_codec.md R140 to R165). -/

namespace Sys2Proof.Machine

/-! ### Encoding -/

/-- The raw bytes of a message: the status byte, the first data byte, and the second where the kind has one (R140, R142
to R148). Nothing is clamped or checked (R149). -/
def renderRaw (k : Kind) (chan : U4) (d1 d2 : U7) : List Byte :=
  if nData k = 2 then [statusByte k chan, zextSeven d1, zextSeven d2] else [statusByte k chan, zextSeven d1]

/-- RAW_ENC's outcome (R140): lane 2 is 0x00 for a raw length of 2 (spec/20_memory.md R41); a kind outside `CV_KINDS`
is a defect (R141). -/
def replyRawEnc (kind chan : U4) (d1 d2 : U7) : Except Defect Outputs :=
  match kindOfNibble kind with
  | some k =>
    let r := renderRaw k chan d1 d2
    .ok (.raw (r.getD 0 0) (r.getD 1 0) (r.getD 2 0) (BitVec.ofNat 3 r.length))
  | none => .error .unrenderableMessage

/-! ### Decoding -/

/-- The data bytes of a kind that carries a Note: the note is checked strictly, the other byte is clamped (R152 to
R154, R159, R160). -/
def decodeNoteBody (k : Kind) (chan : U4) (r : List Byte) (n : Nat) : Except Err Message :=
  do let b1 ← getByte r n 1
     let note ← strictNote b1
     let b2 ← getByte r n 2
     pure { kind := k, chan := chan, d1 := note, d2 := clamp7 b2 }

/-- The data bytes of a kind with two values and no Note: both are clamped (R155, R158, R160). -/
def decodePairBody (k : Kind) (chan : U4) (r : List Byte) (n : Nat) : Except Err Message :=
  do let b1 ← getByte r n 1
     let b2 ← getByte r n 2
     pure { kind := k, chan := chan, d1 := clamp7 b1, d2 := clamp7 b2 }

/-- The data byte of a kind with one value: it is clamped, and `d2` is 0 (R156, R157, R160; spec/10_state.md R30). -/
def decodeSingleBody (k : Kind) (chan : U4) (r : List Byte) (n : Nat) : Except Err Message :=
  do let b1 ← getByte r n 1
     pure { kind := k, chan := chan, d1 := clamp7 b1, d2 := 0 }

/-- The data bytes of a raw message, by its kind (R150, R152 to R158); bytes past the message are not read (R164). -/
def decodeBody (k : Kind) (chan : U4) (r : List Byte) (n : Nat) : Except Err Message :=
  match k with
  | .noteOff => decodeNoteBody .noteOff chan r n
  | .noteOn => decodeNoteBody .noteOn chan r n
  | .polyAftertouch => decodeNoteBody .polyAftertouch chan r n
  | .controlChange => decodePairBody .controlChange chan r n
  | .programChange => decodeSingleBody .programChange chan r n
  | .channelAftertouch => decodeSingleBody .channelAftertouch chan r n
  | .pitchBend => decodePairBody .pitchBend chan r n

/-- `rawDecode` (R150), shared by RAW_DEC and PKT_DEC: the status byte, the dispatch on its top nibble (R151), then the
data bytes in offset order; the first failure is the one reported (R162, R163). -/
def rawDecode (kinds : List Kind) (r : List Byte) (n : Nat) : Except Err Message :=
  do let status ← getByte r n 0
     match recognised kinds (hiNibble status) with
     | some k => decodeBody k (loNibble status) r n
     | none => .error (.invalidEventType status)

/-- RAW_DEC's outcome (R150); a `len_in` above 3 counts as 3. -/
def replyRawDec (kinds : List Kind) (b0 b1 b2 : Byte) (len : U3) : Except Err Outputs :=
  do let m ← rawDecode kinds [b0, b1, b2] (validCount len 3)
     pure (.message m)

/-- RAW_ENC (R140); it encodes all seven kinds, whatever `P_DECODE_KINDS` holds. -/
def execRawEnc (kind chan : U4) (d1 d2 : U7) (s : State) : Host.Outcome State Fault Refusal :=
  .next (s.respond (responseOrDefect (replyRawEnc kind chan d1 d2)))

/-- RAW_DEC (R150). -/
def execRawDec (b0 b1 b2 : Byte) (len : U3) (s : State) : Host.Outcome State Fault Refusal :=
  .next (s.respond (responseOf (replyRawDec s.params.decodeKinds b0 b1 b2 len)))

end Sys2Proof.Machine
end

