-- ==== Sys2Proof/Machine/PacketCodec.lean ====
section
/-! DEFINITION. The event packet codec: PKT_ENC, PKT_DEC, and the seven packet rows, each a complete packet of its kind
handed to PKT_DEC (spec/43_packet_codec.md R190 to R202, spec/42_raw_codec.md R152 to R158). -/

namespace Sys2Proof.Machine

/-! ### Encoding -/

/-- PKT_ENC's outcome (R190): header (R191), then the raw message left-aligned and zero-padded (R192). The bounds check
on the rendered length is explicit (R193), although no kind renders outside it. -/
def replyPktEnc (cable kind chan : U4) (d1 d2 : U7) : Except Defect Outputs :=
  match kindOfNibble kind with
  | some k =>
    let r := renderRaw k chan d1 d2
    if r.length < 1 ∨ 3 < r.length then .error .unrenderableMessage
    else .ok (.packet (joinNibbles cable (cinOf k)) (r.getD 0 0) (r.getD 1 0) (r.getD 2 0) 4)
  | none => .error .unrenderableMessage

/-! ### Decoding -/

/-- PKT_DEC's outcome (R194): fewer than 2 valid bytes are missing data (R202); the cable is the header's top nibble
(R195) and its low nibble is not read (R196); an error of the raw decoder passes on unchanged (R198). -/
def replyPktDec (kinds : List Kind) (b0 b1 b2 b3 : Byte) (len : U3) : Except Err Outputs :=
  if validCount len 4 < 2 then .error .missingDataPacket
  else
    do let m ← rawDecode kinds [b1, b2, b3] (validCount len 4 - 1)
       pure (.cabled (hiNibble b0) m)

/-- The outcome of PKT_DEC for a complete packet of a kind (R151 to R158, R194): the kind is decoded where
`P_DECODE_KINDS` has it. -/
def replyPacketRow (kinds : List Kind) (k : Kind) (cable chan : U4) (data1 data2 : Byte) : Except Err Outputs :=
  if k ∈ kinds then
    do let m ← decodeBody k chan [statusByte k chan, data1, data2] 3
       pure (.cabled cable m)
  else .error (.invalidEventType (statusByte k chan))

/-- PKT_ENC (R190). -/
def execPktEnc (cable kind chan : U4) (d1 d2 : U7) (s : State) : Host.Outcome State Fault Refusal :=
  .next (s.respond (responseOrDefect (replyPktEnc cable kind chan d1 d2)))

/-- PKT_DEC (R194). -/
def execPktDec (b0 b1 b2 b3 : Byte) (len : U3) (s : State) : Host.Outcome State Fault Refusal :=
  .next (s.respond (responseOf (replyPktDec s.params.decodeKinds b0 b1 b2 b3 len)))

/-- PKT.NoteOff (R152); the CIN is not read (R196). -/
def execPktNoteOff (cable _cin chan : U4) (note velocity : Byte) (s : State) : Host.Outcome State Fault Refusal :=
  .next (s.respond (responseOf (replyPacketRow s.params.decodeKinds .noteOff cable chan note velocity)))

/-- PKT.NoteOn (R153); a velocity of 0 stays a NoteOn. -/
def execPktNoteOn (cable _cin chan : U4) (note velocity : Byte) (s : State) : Host.Outcome State Fault Refusal :=
  .next (s.respond (responseOf (replyPacketRow s.params.decodeKinds .noteOn cable chan note velocity)))

/-- PKT.PolyAftertouch (R154). -/
def execPktPolyAftertouch (cable _cin chan : U4) (note pressure : Byte) (s : State) :
    Host.Outcome State Fault Refusal :=
  .next (s.respond (responseOf (replyPacketRow s.params.decodeKinds .polyAftertouch cable chan note pressure)))

/-- PKT.ControlChange (R155). -/
def execPktControlChange (cable _cin chan : U4) (control value : Byte) (s : State) :
    Host.Outcome State Fault Refusal :=
  .next (s.respond (responseOf (replyPacketRow s.params.decodeKinds .controlChange cable chan control value)))

/-- PKT.ProgramChange (R156); the padding byte is not read (R164). -/
def execPktProgramChange (cable _cin chan : U4) (program pad : Byte) (s : State) : Host.Outcome State Fault Refusal :=
  .next (s.respond (responseOf (replyPacketRow s.params.decodeKinds .programChange cable chan program pad)))

/-- PKT.ChannelAftertouch (R157); the padding byte is not read (R164). -/
def execPktChannelAftertouch (cable _cin chan : U4) (pressure pad : Byte) (s : State) :
    Host.Outcome State Fault Refusal :=
  .next (s.respond (responseOf (replyPacketRow s.params.decodeKinds .channelAftertouch cable chan pressure pad)))

/-- PKT.PitchBend (R158): LSB first (spec/20_memory.md R44). -/
def execPktPitchBend (cable _cin chan : U4) (lsb msb : Byte) (s : State) : Host.Outcome State Fault Refusal :=
  .next (s.respond (responseOf (replyPacketRow s.params.decodeKinds .pitchBend cable chan lsb msb)))

end Sys2Proof.Machine
end

