-- ==== Sys2Proof/Machine/Primitives.lean ====
section
/-! DEFINITION. The range-restricted primitives: NOTE_STRICT, U7_CLAMP, CABLE_STRICT, CHAN_OF_STATUS
(spec/40_primitives.md R100 to R104). The strict and the clamping conversion stay two operations (R104). -/

namespace Sys2Proof.Machine

/-- NOTE_STRICT's outcome (R100). -/
def replyNoteStrict (b : Byte) : Except Err Outputs :=
  do let note ← strictNote b
     pure (.value (zextSeven note))

/-- CABLE_STRICT's outcome (R102). -/
def replyCableStrict (b : Byte) : Except Err Outputs :=
  do let cable ← strictCable b
     pure (.value (zextNibble cable))

/-- NOTE_STRICT (R100): a byte above 0x7F is `InvalidNote`, never clamped. -/
def execNoteStrict (b : Byte) (s : State) : Host.Outcome State Fault Refusal :=
  .next (s.respond (responseOf (replyNoteStrict b)))

/-- U7_CLAMP (R101): saturates, cannot fail. -/
def execU7Clamp (b : Byte) (s : State) : Host.Outcome State Fault Refusal :=
  .next (s.respond (.ok (.value (zextSeven (clamp7 b)))))

/-- CABLE_STRICT (R102): a byte above 0x0F is `InvalidCableNumber`. -/
def execCableStrict (b : Byte) (s : State) : Host.Outcome State Fault Refusal :=
  .next (s.respond (responseOf (replyCableStrict b)))

/-- CHAN_OF_STATUS (R103): the low nibble, whatever the high one is; cannot fail. -/
def execChanOfStatus (b : Byte) (s : State) : Host.Outcome State Fault Refusal :=
  .next (s.respond (.ok (.value (zextNibble (loNibble b)))))

end Sys2Proof.Machine
end

