-- ==== Sys2Proof/Machine/Reserved.lean ====
section
/-! DEFINITION. The reserved `op` values (spec/30_encoding.md R71, spec/60_exceptions.md R225): each answers
`Fault(IllegalOp)`, `err` 6 with `err_byte` the op, and reads no other input. -/

namespace Sys2Proof.Machine

/-- `raise Fault(IllegalOp)` for an `op` (R225). -/
def illegalOp (op : U4) : Response := .fault (.illegalOp op)

/-- Reserved `op` 0x0. -/
def execReservedOp0 (s : State) : Host.Outcome State Fault Refusal := .next (s.respond (illegalOp 0x0))

/-- Reserved `op` 0xA. -/
def execReservedOpA (s : State) : Host.Outcome State Fault Refusal := .next (s.respond (illegalOp 0xA))

/-- Reserved `op` 0xB. -/
def execReservedOpB (s : State) : Host.Outcome State Fault Refusal := .next (s.respond (illegalOp 0xB))

/-- Reserved `op` 0xC. -/
def execReservedOpC (s : State) : Host.Outcome State Fault Refusal := .next (s.respond (illegalOp 0xC))

/-- Reserved `op` 0xD. -/
def execReservedOpD (s : State) : Host.Outcome State Fault Refusal := .next (s.respond (illegalOp 0xD))

/-- Reserved `op` 0xE. -/
def execReservedOpE (s : State) : Host.Outcome State Fault Refusal := .next (s.respond (illegalOp 0xE))

/-- Reserved `op` 0xF. -/
def execReservedOpF (s : State) : Host.Outcome State Fault Refusal := .next (s.respond (illegalOp 0xF))

end Sys2Proof.Machine
end

