-- ==== Sys2Proof/Machine/Dispatch.lean ====
section
/-! DEFINITION. One arm per constructor of Instr, each one call of its meaning. -/

namespace Sys2Proof.Machine

def exec (i : Instr) (s : State) : Host.Outcome State Fault Refusal :=
  match i with
  | .classify kind slen => Sys2Proof.Machine.execClassify kind slen s
  | .rawEnc kind chan d1 d2 => Sys2Proof.Machine.execRawEnc kind chan d1 d2 s
  | .rawDec b0 b1 b2 len => Sys2Proof.Machine.execRawDec b0 b1 b2 len s
  | .pktEnc cable kind chan d1 d2 => Sys2Proof.Machine.execPktEnc cable kind chan d1 d2 s
  | .pktDec b0 b1 b2 b3 len => Sys2Proof.Machine.execPktDec b0 b1 b2 b3 len s
  | .noteStrict b => Sys2Proof.Machine.execNoteStrict b s
  | .u7Clamp b => Sys2Proof.Machine.execU7Clamp b s
  | .cableStrict b => Sys2Proof.Machine.execCableStrict b s
  | .chanOfStatus b => Sys2Proof.Machine.execChanOfStatus b s
  | .reservedOp0 => Sys2Proof.Machine.execReservedOp0 s
  | .reservedOpA => Sys2Proof.Machine.execReservedOpA s
  | .reservedOpB => Sys2Proof.Machine.execReservedOpB s
  | .reservedOpC => Sys2Proof.Machine.execReservedOpC s
  | .reservedOpD => Sys2Proof.Machine.execReservedOpD s
  | .reservedOpE => Sys2Proof.Machine.execReservedOpE s
  | .reservedOpF => Sys2Proof.Machine.execReservedOpF s
  | .pktNoteOff cable cin chan note velocity => Sys2Proof.Machine.execPktNoteOff cable cin chan note velocity s
  | .pktNoteOn cable cin chan note velocity => Sys2Proof.Machine.execPktNoteOn cable cin chan note velocity s
  | .pktPolyAftertouch cable cin chan note pressure => Sys2Proof.Machine.execPktPolyAftertouch cable cin chan note pressure s
  | .pktControlChange cable cin chan control value => Sys2Proof.Machine.execPktControlChange cable cin chan control value s
  | .pktProgramChange cable cin chan program pad => Sys2Proof.Machine.execPktProgramChange cable cin chan program pad s
  | .pktChannelAftertouch cable cin chan pressure pad => Sys2Proof.Machine.execPktChannelAftertouch cable cin chan pressure pad s
  | .pktPitchBend cable cin chan lsb msb => Sys2Proof.Machine.execPktPitchBend cable cin chan lsb msb s

end Sys2Proof.Machine
end

