-- ==== Sys2Proof/Machine/Step.lean ====
section
/-! DEFINITION. One step of the machine: one clock cycle of the unit (spec/10_state.md R29, R32), in which it answers at
most one request. -/

namespace Sys2Proof.Machine

/-- One cycle: the host and the pipeline move on, and the request whose response falls in this cycle is decoded and
executed. -/
def step (s : State) : Host.Outcome State Fault Refusal :=
  match s.cycle with
  | (.answer r, t) => exec (decode r) t
  | (.quiet, t) => .next t.quiet
  | (.unsettled, t) => .next t.unsettled

/-- The state in which the next step runs the instruction of a table word: the host presents its request, or, with
`P_LATENCY > 0`, it is in flight with one edge left (assumption log 7). -/
def State.withFetchWord (s : State) (nbits w : Nat) : State := s.aboutToServe (tableRequest nbits w)

end Sys2Proof.Machine
end

