-- ==== Sys2Proof/Safety.lean ====
section
/-! DEFINITION. What the claims speak of: a good run and its observation (spec/70_reset_and_hazards.md R258), what it is
for the unit to present a response, the response to a request served alone, the order in the pipeline, the closed form
of the decoder's outcome (spec/42_raw_codec.md R163), the outcomes of each operation (spec/60_exceptions.md R226), and
canonical packets (spec/43_packet_codec.md R201). -/

namespace Sys2Proof.Safety

open Sys2Proof.Machine

/-- A run without a fault (spec/60_exceptions.md R224: a run with `faulted = true` is never a good final run). -/
abbrev GoodRun (s : State) : Prop := s.faulted = false

/-- The run has ended: the host has no cycle left in its script and nothing is in flight. R258 ends a run of N requests
when N responses have been recorded and `inflight` is empty. DESIGN CHOICE (assumption log 12): where a request gets no
response, dropped by a reset edge (R250) or presented without being held at latency 0 (log 5), N responses are never
recorded and R258 does not say when such a run ends; here it ends all the same, with fewer responses. -/
abbrev RunEnded (s : State) : Prop := s.host = [] ∧ s.inflight = []

/-- What a run shows (R258). -/
def observation (s : State) : List Response × Bool := (s.responses, s.faulted)

/-! ### Presenting a response -/

/-- The ports an OK response defines hold its outputs (spec/30_encoding.md R61). -/
def ShowsOutputs (p : OutPorts) : Outputs → Prop
  | .cin c => p.cin = c
  | .raw b0 b1 b2 nbytes => p.pkt0 = b0 ∧ p.pkt1 = b1 ∧ p.pkt2 = b2 ∧ p.nbytes = nbytes
  | .message m => p.kind = kindNibble m.kind ∧ p.chan = m.chan ∧ p.d1 = m.d1 ∧ p.d2 = m.d2
  | .packet b0 b1 b2 b3 nbytes => p.pkt0 = b0 ∧ p.pkt1 = b1 ∧ p.pkt2 = b2 ∧ p.pkt3 = b3 ∧ p.nbytes = nbytes
  | .cabled cable m =>
    p.cable = cable ∧ p.kind = kindNibble m.kind ∧ p.chan = m.chan ∧ p.d1 = m.d1 ∧ p.d2 = m.d2
  | .value v => p.val = v

/-- `err`, and `err_byte` where it is defined, as R221 and R222 tabulate them; nothing else after an error or a fault
(R223). -/
def ShowsOutcome (p : OutPorts) : Response → Prop
  | .ok o => p.err = 0 ∧ ShowsOutputs p o
  | .err .missingDataPacket => p.err = 1
  | .err (.invalidEventType status) => p.err = 2 ∧ p.errByte = status
  | .err (.invalidNote b) => p.err = 3 ∧ p.errByte = b
  | .err (.invalidCableNumber b) => p.err = 4 ∧ p.errByte = b
  | .fault (.defect .unrenderableMessage) => p.err = 5 ∧ p.errByte = 1
  | .fault (.defect .undeterminedLength) => p.err = 5 ∧ p.errByte = 2
  | .fault (.defect .unknownClass) => p.err = 5 ∧ p.errByte = 3
  | .fault (.illegalOp op) => p.err = 6 ∧ p.errByte = 0#4 ++ op

/-- The output ports present a response (spec/10_state.md R28, R29). -/
def Shows (p : OutPorts) (r : Response) : Prop := p.rspValid = true ∧ ShowsOutcome p r

/-- THE COMPLETION OF AN INSTRUCTION AND ITS FRAME: `exec i s` answers a next state in which the unit presents `r`. It
records `r` and nothing else, is faulted if it was or if `r` is a fault, shows `r` on its ports, and leaves the
parameters, the host's script and the pipeline as they were. The unit has no register, special register or memory. -/
def Presents (i : Instr) (s : State) (r : Response) : Prop :=
  ∃ t, exec i s = .next t ∧ t.responses = s.responses ++ [r] ∧
    (t.faulted = true ↔ s.faulted = true ∨ ∃ f, r = .fault f) ∧ Shows t.out r ∧
    t.params = s.params ∧ t.host = s.host ∧ t.inflight = s.inflight

/-- The response to an instruction served alone at the start of a run, by a unit built with `p`. -/
def answer? (p : Params) (i : Instr) : Option Response :=
  match exec i { State.reset with params := p } with
  | .next t => t.responses.getLast?
  | .fault _ => none
  | .refused _ => none

/-! ### Requests -/

/-- Two requests agree on `op` and on every input the operation reads (spec/30_encoding.md R61). -/
def SameInputsRead (r r' : Request) : Prop :=
  r.op = r'.op ∧
    match r.op.toNat with
    | 1 => r.kind = r'.kind ∧ r.slen = r'.slen
    | 2 => r.kind = r'.kind ∧ r.chan = r'.chan ∧ r.d1 = r'.d1 ∧ r.d2 = r'.d2
    | 3 => r.pkt0 = r'.pkt0 ∧ r.pkt1 = r'.pkt1 ∧ r.pkt2 = r'.pkt2 ∧ r.len = r'.len
    | 4 => r.cable = r'.cable ∧ r.kind = r'.kind ∧ r.chan = r'.chan ∧ r.d1 = r'.d1 ∧ r.d2 = r'.d2
    | 5 => r.pkt0 = r'.pkt0 ∧ r.pkt1 = r'.pkt1 ∧ r.pkt2 = r'.pkt2 ∧ r.pkt3 = r'.pkt3 ∧ r.len = r'.len
    | 6 => r.byte = r'.byte
    | 7 => r.byte = r'.byte
    | 8 => r.byte = r'.byte
    | 9 => r.byte = r'.byte
    | _ => True

/-- The outcomes a request with this `op` can end in: the table of spec/60_exceptions.md R226, with the outputs R61
gives the operation when it ends in OK. -/
def mayEnd (op : U4) (r : Response) : Prop :=
  match op.toNat with
  | 1 => (∃ c, r = .ok (.cin c)) ∨ r = .fault (.defect .undeterminedLength) ∨ r = .fault (.defect .unknownClass)
  | 2 => (∃ b0 b1 b2 n, r = .ok (.raw b0 b1 b2 n)) ∨ r = .fault (.defect .unrenderableMessage)
  | 3 =>
    (∃ m, r = .ok (.message m)) ∨ r = .err .missingDataPacket ∨ (∃ b, r = .err (.invalidEventType b)) ∨
      ∃ b, r = .err (.invalidNote b)
  | 4 => (∃ b0 b1 b2 b3 n, r = .ok (.packet b0 b1 b2 b3 n)) ∨ r = .fault (.defect .unrenderableMessage)
  | 5 =>
    (∃ c m, r = .ok (.cabled c m)) ∨ r = .err .missingDataPacket ∨ (∃ b, r = .err (.invalidEventType b)) ∨
      ∃ b, r = .err (.invalidNote b)
  | 6 => (∃ v, r = .ok (.value v)) ∨ ∃ b, r = .err (.invalidNote b)
  | 7 => ∃ v, r = .ok (.value v)
  | 8 => (∃ v, r = .ok (.value v)) ∨ ∃ b, r = .err (.invalidCableNumber b)
  | 9 => ∃ v, r = .ok (.value v)
  | _ => r = .fault (.illegalOp op)

/-! ### The decoder in closed form -/

/-- A byte saturated to seven bits (spec/42_raw_codec.md R160). -/
def saturated (b : Byte) : U7 := BitVec.ofNat 7 (min b.toNat 127)

/-- The kinds that carry a Note (spec/10_state.md R30). -/
def hasNote (k : Kind) : Bool := k == .noteOff || k == .noteOn || k == .polyAftertouch

/-- The decoder's outcome on `n` valid raw bytes, as R163 lists its failures in order; the message is that of R152 to
R158. -/
def decodedOrFirstFailure (kinds : List Kind) (b0 b1 b2 : Byte) (n : Nat) : Except Err Message :=
  if n < 1 then .error .missingDataPacket
  else
    match kinds.find? fun k => (kindNibble k).toNat == b0.toNat / 16 with
    | none => .error (.invalidEventType b0)
    | some k =>
      if n < 2 then .error .missingDataPacket
      else if hasNote k ∧ 127 < b1.toNat then .error (.invalidNote b1)
      else if nData k = 2 ∧ n < 3 then .error .missingDataPacket
      else
        .ok { kind := k, chan := BitVec.ofNat 4 b0.toNat, d1 := saturated b1,
              d2 := if nData k = 2 then saturated b2 else 0 }

/-- A canonical packet (spec/43_packet_codec.md R201). -/
def Canonical (kinds : List Kind) (b0 b1 b2 b3 : Byte) : Prop :=
  loNibble b0 = hiNibble b1 ∧
    ∃ k ∈ kinds, hiNibble b1 = kindNibble k ∧ b2.toNat ≤ 127 ∧ if nData k = 2 then b3.toNat ≤ 127 else b3 = 0

/-! ### Invariants -/

/-- The pipeline's order: the oldest request is answered first, no two in one cycle, and every response is still to
come, at most `latency` edges away (spec/10_state.md R29). -/
def PipelineOrdered (latency : Nat) (q : List InFlight) : Prop :=
  q.Pairwise (fun a b => a.left < b.left) ∧ ∀ e ∈ q, 1 ≤ e.left ∧ e.left ≤ latency

/-- `faulted` says exactly that some recorded response is a fault (spec/10_state.md R32). -/
def FaultedIsRecorded (s : State) : Prop := s.faulted = true ↔ ∃ f, Response.fault f ∈ s.responses

/-- The invariant of the machine. -/
def Inv (s : State) : Prop := PipelineOrdered s.params.latency s.inflight ∧ FaultedIsRecorded s

end Sys2Proof.Safety
end

