-- ==== Sys2Proof/Certificates/Slice0/Obligations.lean ====
section
/-! DEFINITION. The statements for the provers. `Presents i s r` (Sys2Proof/Safety.lean) is the completion of an
instruction with its frame: `exec i s` answers a next state that records `r`, is faulted if it was or if `r` is a fault,
shows `r` on the ports the outcome defines, and leaves the parameters, the host's script and the pipeline as they were.
The unit has no register, no special register and no memory (spec/10_state.md R20 to R25), so that is its whole frame.
Every statement holds for every value of the build parameters the state carries and for every free value. -/

open Sys2Proof Sys2Proof.Machine Sys2Proof.Safety

/-! ### Reset, decoding, the step -/

/-- R34, R7: what reset leaves: no response, not faulted, nothing in flight. MODEL'S CHOICE beside them: the parameters
are a field, with the values this spec takes (assumption log 1); and `rsp_valid` is 0 at reset with latency 0 too, where
R34 gives it no reset value: as in R29's cycle in which nothing is presented (assumption log 4). -/
def Obligations.ResetLeavesNothingRecorded : Prop :=
  State.reset.responses = [] ∧ State.reset.faulted = false ∧ State.reset.inflight = [] ∧
    State.reset.out.rspValid = false ∧ State.reset.params.latency = 0 ∧ ∀ k, k ∈ State.reset.params.decodeKinds

/-- R29, R32: a step is `exec` of the decoded request whose response falls in this cycle: the one the host presents now
on a combinational unit; the oldest in flight, when its last edge has come, on a pipelined one, which in the same cycle
accepts what the host presents. MODEL'S CHOICE in the third clause: past the end of its script the host presents nothing
(assumption log 2). PRESUMED in the second (assumption log 10): the inputs captured are those of the cycle, whatever
`held` says, where R255 leaves to the host to keep them stable around the edge. -/
def Obligations.StepExecutesTheRequestOfItsCycle : Prop :=
  (∀ (s : State) (c : Cycle) (rest : List Cycle), s.params.latency = 0 → s.host = c :: rest → c.reqValid = true →
    c.held = true → step s = exec (decode c.req) { s with host := rest }) ∧
  (∀ (s : State) (c : Cycle) (rest : List Cycle) (e : InFlight) (q : List InFlight), s.params.latency ≠ 0 →
    s.host = c :: rest → c.rst = false → s.inflight = e :: q → e.left ≤ 1 →
    step s = exec (decode e.req)
      { s with
        host := rest
        inflight := (q.map fun x => ⟨x.left - 1, x.req⟩) ++ if c.reqValid then [⟨s.params.latency, c.req⟩] else [] }) ∧
  (∀ (s : State) (e : InFlight) (q : List InFlight), s.params.latency ≠ 0 → s.host = [] → s.inflight = e :: q →
    e.left ≤ 1 → step s = exec (decode e.req) { s with inflight := q.map fun x => ⟨x.left - 1, x.req⟩ })

/-- MODEL'S CHOICE (assumption log 7: how a word is placed): the next step after a table word is placed runs the
instruction the decoder reads from it, whatever the latency. -/
def Obligations.PlacedTableWordRunsNext : Prop :=
  ∀ (s : State) (nbits w : Nat) (i : Instr), decodeTableWord nbits w = some i →
    ∃ t, step (s.withFetchWord nbits w) = exec i t ∧ t.host = s.host ∧ t.responses = s.responses ∧
      t.faulted = s.faulted ∧ t.params = s.params

/-- R60, R66: words written out from the spec's encodings decode to the instructions they stand for: `op` 0x1, 0x6 and
0xA, and DOC's packets S1, S3, S4 and S5. MODEL'S CHOICE: that a complete packet, which section 1.1 of
spec/95_test_vectors.md calls a PKT_DEC request, decodes to its packet row (assumption log 6), and that an `op` word has
zero operands and a packet word `len_in` 4 (assumption log 7). -/
def Obligations.SpecWordsDecodeToTheirRows : Prop :=
  decodeTableWord 8 0b0001 = some (.classify 0 0) ∧ decodeTableWord 8 0b0110 = some (.noteStrict 0) ∧
  decodeTableWord 8 0b1010 = some .reservedOpA ∧
  decodeTableWord 32 0b00001001100100000010010001111111 = some (.pktNoteOn 0 9 0 36 127) ∧
  decodeTableWord 32 0b00011100110000000111111100000000 = some (.pktProgramChange 1 12 0 127 0) ∧
  decodeTableWord 32 0b00001110111000000100000000100000 = some (.pktPitchBend 0 14 0 64 32) ∧
  decodeTableWord 32 0b00001011101100010000000100100000 = some (.pktControlChange 0 11 1 1 32)

/-- R11, R66, R30: the nibble of each kind, every other nibble naming none, and how many data values a kind has. -/
def Obligations.StatusNibblesNameTheKinds : Prop :=
  kindNibble .noteOff = 0x8 ∧ kindNibble .noteOn = 0x9 ∧ kindNibble .polyAftertouch = 0xA ∧
  kindNibble .controlChange = 0xB ∧ kindNibble .programChange = 0xC ∧ kindNibble .channelAftertouch = 0xD ∧
  kindNibble .pitchBend = 0xE ∧ (∀ (n : U4) (k : Kind), kindOfNibble n = some k ↔ kindNibble k = n) ∧
  (∀ n : U4, kindOfNibble n = none ↔ n.toNat < 8 ∨ n = 0xF) ∧
  ∀ k : Kind, nData k = if k = .programChange ∨ k = .channelAftertouch then 1 else 2

/-- R60, R61: `op` picks the operation, and its operands are the inputs the table lists for it; a PKT_DEC request that is
not a complete packet of a channel-voice kind decodes to PKT_DEC, any other to that kind's packet row (the two readings
are the MODEL'S CHOICE, assumption log 6). -/
def Obligations.OperationSelectPicksTheRow : Prop :=
  ∀ r : Request,
    (r.op = 0x1 → decode r = .classify r.kind r.slen) ∧ (r.op = 0x2 → decode r = .rawEnc r.kind r.chan r.d1 r.d2) ∧
    (r.op = 0x3 → decode r = .rawDec r.pkt0 r.pkt1 r.pkt2 r.len) ∧
    (r.op = 0x4 → decode r = .pktEnc r.cable r.kind r.chan r.d1 r.d2) ∧
    (r.op = 0x5 → (r.len.toNat < 4 ∨ r.pkt1.toNat < 0x80 ∨ 0xF0 ≤ r.pkt1.toNat) →
      decode r = .pktDec r.pkt0 r.pkt1 r.pkt2 r.pkt3 r.len) ∧
    (r.op = 0x5 → 4 ≤ r.len.toNat → 0x80 ≤ r.pkt1.toNat → r.pkt1.toNat < 0xF0 →
      packetRow r.pkt0 r.pkt1 r.pkt2 r.pkt3 = some (decode r)) ∧
    (r.op = 0x6 → decode r = .noteStrict r.byte) ∧ (r.op = 0x7 → decode r = .u7Clamp r.byte) ∧
    (r.op = 0x8 → decode r = .cableStrict r.byte) ∧ (r.op = 0x9 → decode r = .chanOfStatus r.byte) ∧
    (r.op = 0x0 → decode r = .reservedOp0) ∧ (r.op = 0xA → decode r = .reservedOpA) ∧
    (r.op = 0xB → decode r = .reservedOpB) ∧ (r.op = 0xC → decode r = .reservedOpC) ∧
    (r.op = 0xD → decode r = .reservedOpD) ∧ (r.op = 0xE → decode r = .reservedOpE) ∧
    (r.op = 0xF → decode r = .reservedOpF)

/-- Every well-formed instruction survives encoding and decoding, with every operand at every value. MODEL'S CHOICE: a
complete packet is its packet row, so that a PKT_DEC term of one is not well-formed (assumption log 6). -/
def Obligations.EncodeThenDecodeIsIdentity : Prop :=
  ∀ i : Instr, i.wf = true → decode (encode i) = i

/-- Every request decodes to a well-formed instruction (the MODEL'S notion, assumption log 6), whose encoding asks for the
same operation. -/
def Obligations.DecodedRequestsAreWellFormed : Prop :=
  ∀ r : Request, (decode r).wf = true ∧ (encode (decode r)).op = r.op

/-- R61: an input an operation does not read is ignored. -/
def Obligations.InputsNotReadAreIgnored : Prop :=
  ∀ r r' : Request, SameInputsRead r r' → decode r = decode r'

/-- No word matches two rows of one format of the opcode table. -/
def Obligations.TableRowsDoNotOverlap : Prop :=
  ∀ (w : BitVec 32) (a b : Row), a ∈ opcodeTable → b ∈ opcodeTable → a.format = b.format → a.accepts w = true →
    b.accepts w = true → a = b

/-! ### Every instruction -/

/-- R5: the result is a function of the request alone: from any two states of a unit, the same instruction presents the
same response, whatever was served before. Every instruction completes from every state. -/
def Obligations.ResponseIsAFunctionOfTheRequest : Prop :=
  ∀ (i : Instr) (s s' : State), s.params = s'.params → ∃ r, Presents i s r ∧ Presents i s' r

/-- R221, R222: `err` and `err_byte` by outcome, for every response of every instruction; 7 is never driven. -/
def Obligations.EveryResponseDrivesItsErrorCode : Prop :=
  ∀ (i : Instr) (s t : State), exec i s = .next t →
    ∃ r, t.responses = s.responses ++ [r] ∧ t.out.rspValid = true ∧ ShowsOutcome t.out r ∧ t.out.err ≠ 7

/-- R226: which operation can end in which outcome. -/
def Obligations.OperationsEndOnlyInTheirOutcomes : Prop :=
  ∀ (q : Request) (s : State) (r : Response), Presents (decode q) s r → mayEnd q.op r

/-! ### Primitives -/

/-- R100 (`op` 0x6): a byte of at most 0x7F is accepted unchanged, any other is `InvalidNote`. -/
def Obligations.NoteStrictAcceptsOrRejects : Prop :=
  (∀ q : Request, q.op = 0x6 → decode q = .noteStrict q.byte) ∧
  ∀ (s : State) (b : Byte),
    Presents (.noteStrict b) s (if b.toNat ≤ 0x7F then .ok (.value b) else .err (.invalidNote b))

/-- R101 (`op` 0x7): saturation, not masking. -/
def Obligations.SevenBitClampSaturates : Prop :=
  (∀ q : Request, q.op = 0x7 → decode q = .u7Clamp q.byte) ∧
  ∀ (s : State) (b : Byte), Presents (.u7Clamp b) s (.ok (.value (if b.toNat ≤ 0x7F then b else 0x7F)))

/-- R102 (`op` 0x8): a byte of at most 0x0F is accepted unchanged, any other is `InvalidCableNumber`, an error no other
operation raises. -/
def Obligations.CableStrictAcceptsOrRejects : Prop :=
  (∀ q : Request, q.op = 0x8 → decode q = .cableStrict q.byte) ∧
  (∀ (s : State) (b : Byte),
    Presents (.cableStrict b) s (if b.toNat ≤ 0x0F then .ok (.value b) else .err (.invalidCableNumber b))) ∧
  ∀ (i : Instr) (s : State) (b : Byte), Presents i s (.err (.invalidCableNumber b)) → i = .cableStrict b

/-- R103 (`op` 0x9): `b & 0x0F`, for every byte. -/
def Obligations.ChannelOfStatusMasks : Prop :=
  (∀ q : Request, q.op = 0x9 → decode q = .chanOfStatus q.byte) ∧
  ∀ (s : State) (b : Byte), Presents (.chanOfStatus b) s (.ok (.value (b &&& 0x0F)))

/-! ### Classifier -/

/-- R121 to R127 (`op` 0x1): the CIN of every class code and length, and the two faults. -/
def Obligations.ClassifyGivesTheTabledCin : Prop :=
  (∀ q : Request, q.op = 0x1 → decode q = .classify q.kind q.slen) ∧
  ∀ (s : State) (c : U4) (len : U2),
    Presents (.classify c len) s
      (if 0x8 ≤ c.toNat then .ok (.cin c)
      else if c = 0x1 then
        if len = 1 then .ok (.cin 0x5) else if len = 2 then .ok (.cin 0x2) else if len = 3 then .ok (.cin 0x3)
        else .fault (.defect .undeterminedLength)
      else if c = 0x2 then .ok (.cin 0x4)
      else if c = 0x3 then
        if len = 1 then .ok (.cin 0x5) else if len = 2 then .ok (.cin 0x6) else if len = 3 then .ok (.cin 0x7)
        else .fault (.defect .undeterminedLength)
      else .fault (.defect .unknownClass))

/-- R128: CLASSIFY is total on the message classes, and its result depends on the class code alone, and for
SYSTEM_COMMON (0x1) and SYSEX_END (0x3) on the length. -/
def Obligations.ClassifyIsTotalOnClasses : Prop :=
  (∀ (s : State) (c : U4) (len : U2), (c = 0x2 ∨ 0x8 ≤ c.toNat ∨ ((c = 0x1 ∨ c = 0x3) ∧ 1 ≤ len.toNat)) →
    ∃ cin, Presents (.classify c len) s (.ok (.cin cin))) ∧
  (∀ (s s' : State) (c : U4) (len len' : U2) (r : Response), (c = 0x1 ∨ c = 0x3 → len = len') →
    Presents (.classify c len) s r → Presents (.classify c len') s' r)

/-- R129: `cinOf` of a kind is the CIN that CLASSIFY gives for its class code, the kind's own nibble. -/
def Obligations.CinOfAKindIsItsClassification : Prop :=
  ∀ (s : State) (k : Kind) (len : U2),
    cinOf k = kindNibble k ∧ Presents (.classify (kindNibble k) len) s (.ok (.cin (cinOf k)))

/-! ### Raw codec -/

/-- R140, R142 to R149 (`op` 0x2): status byte, then the data values unchanged with bit 7 clear; lane 2 is 0x00 and the
length 2 for 0xC and 0xD, whatever `d2_in` holds; a kind outside 0x8..0xE is a defect. -/
def Obligations.RawEncWritesStatusAndData : Prop :=
  (∀ q : Request, q.op = 0x2 → decode q = .rawEnc q.kind q.chan q.d1 q.d2) ∧
  ∀ (s : State) (kind chan : U4) (d1 d2 : U7),
    Presents (.rawEnc kind chan d1 d2) s
      (if kind.toNat < 0x8 ∨ kind = 0xF then .fault (.defect .unrenderableMessage)
      else if kind = 0xC ∨ kind = 0xD then .ok (.raw (kind ++ chan) (0#1 ++ d1) 0x00 2)
      else .ok (.raw (kind ++ chan) (0#1 ++ d1) (0#1 ++ d2) 3))

/-- R141: RAW_ENC and PKT_ENC fault on a kind that is no channel-voice kind; the run is marked and nothing is written. -/
def Obligations.UnrenderableKindIsADefect : Prop :=
  ∀ (s : State) (cable kind chan : U4) (d1 d2 : U7), (∀ k : Kind, kindNibble k ≠ kind) →
    Presents (.rawEnc kind chan d1 d2) s (.fault (.defect .unrenderableMessage)) ∧
    Presents (.pktEnc cable kind chan d1 d2) s (.fault (.defect .unrenderableMessage))

/-- R152 to R154: NoteOff, NoteOn and PolyAftertouch need three raw bytes; the note is strict, the other byte clamped. -/
def Obligations.RawDecOfNoteKinds : Prop :=
  ∀ (s : State) (k : Kind) (chan : U4) (b1 b2 : Byte) (len : U3), k ∈ s.params.decodeKinds →
    (k = .noteOff ∨ k = .noteOn ∨ k = .polyAftertouch) →
    (3 ≤ len.toNat → b1.toNat ≤ 127 →
      Presents (.rawDec (kindNibble k ++ chan) b1 b2 len) s
        (.ok (.message ⟨k, chan, BitVec.ofNat 7 b1.toNat, saturated b2⟩))) ∧
    (3 ≤ len.toNat → 127 < b1.toNat →
      Presents (.rawDec (kindNibble k ++ chan) b1 b2 len) s (.err (.invalidNote b1))) ∧
    (len.toNat < 3 → ∃ e, Presents (.rawDec (kindNibble k ++ chan) b1 b2 len) s (.err e))

/-- R155, R158: ControlChange and PitchBend need three raw bytes; both data bytes are clamped, never swapped. -/
def Obligations.RawDecOfPairKinds : Prop :=
  ∀ (s : State) (k : Kind) (chan : U4) (b1 b2 : Byte) (len : U3), k ∈ s.params.decodeKinds →
    (k = .controlChange ∨ k = .pitchBend) →
    (3 ≤ len.toNat →
      Presents (.rawDec (kindNibble k ++ chan) b1 b2 len) s (.ok (.message ⟨k, chan, saturated b1, saturated b2⟩))) ∧
    (len.toNat < 3 → Presents (.rawDec (kindNibble k ++ chan) b1 b2 len) s (.err .missingDataPacket))

/-- R156, R157: ProgramChange and ChannelAftertouch need two raw bytes; the data byte is clamped, `d2_out` is 0, and raw
byte 2 is not read. -/
def Obligations.RawDecOfSingleKinds : Prop :=
  ∀ (s : State) (k : Kind) (chan : U4) (b1 b2 : Byte) (len : U3), k ∈ s.params.decodeKinds →
    (k = .programChange ∨ k = .channelAftertouch) →
    (2 ≤ len.toNat →
      Presents (.rawDec (kindNibble k ++ chan) b1 b2 len) s (.ok (.message ⟨k, chan, saturated b1, 0⟩))) ∧
    (len.toNat < 2 → Presents (.rawDec (kindNibble k ++ chan) b1 b2 len) s (.err .missingDataPacket))

/-- R150, R151, R159, R160, R162, R163 (`op` 0x3): RAW_DEC ends in the message or in the first failure of R163's
list, for every value of the lanes and the count. -/
def Obligations.RawDecReportsTheFirstFailure : Prop :=
  (∀ q : Request, q.op = 0x3 → decode q = .rawDec q.pkt0 q.pkt1 q.pkt2 q.len) ∧
  ∀ (s : State) (b0 b1 b2 : Byte) (len : U3),
    Presents (.rawDec b0 b1 b2 len) s
      (match decodedOrFirstFailure s.params.decodeKinds b0 b1 b2 (min len.toNat 3) with
      | .ok m => .ok (.message m)
      | .error e => .err e)

/-- R69, R151: a status byte whose nibble is no kind of `P_DECODE_KINDS` is `InvalidEventType` with the whole byte,
before any data byte is read, on RAW_DEC and on PKT_DEC. -/
def Obligations.UnrecognisedStatusIsInvalidEventType : Prop :=
  ∀ (s : State) (status b0 b1 b2 : Byte) (len : U3), (∀ k ∈ s.params.decodeKinds, kindNibble k ≠ hiNibble status) →
    (1 ≤ len.toNat → Presents (.rawDec status b1 b2 len) s (.err (.invalidEventType status))) ∧
    (2 ≤ len.toNat → Presents (.pktDec b0 status b1 b2 len) s (.err (.invalidEventType status)))

/-- R161: a successful decode keeps the channel exactly, `s & 0x0F`, on RAW_DEC and on PKT_DEC. -/
def Obligations.DecodeKeepsTheChannel : Prop :=
  (∀ (s : State) (b0 b1 b2 : Byte) (len : U3) (m : Message), Presents (.rawDec b0 b1 b2 len) s (.ok (.message m)) →
    0#4 ++ m.chan = b0 &&& 0x0F) ∧
  (∀ (s : State) (b0 b1 b2 b3 : Byte) (len : U3) (cable : U4) (m : Message),
    Presents (.pktDec b0 b1 b2 b3 len) s (.ok (.cabled cable m)) → 0#4 ++ m.chan = b1 &&& 0x0F)

/-- R165: RAW_DEC of what RAW_ENC makes of a message gives the message back, on any two states of one unit. -/
def Obligations.RawRoundTrip : Prop :=
  ∀ (s s' : State) (k : Kind) (chan : U4) (d1 d2 : U7), s.params = s'.params → k ∈ s.params.decodeKinds →
    ∃ b0 b1 b2 n m, Presents (.rawEnc (kindNibble k) chan d1 d2) s (.ok (.raw b0 b1 b2 n)) ∧
      Presents (.rawDec b0 b1 b2 n) s' (.ok (.message m)) ∧ sameMessage m ⟨k, chan, d1, d2⟩

/-- R44: the LSB half is the first data byte and the MSB half the second, in both directions; with R31, the 14-bit value
`(MSB << 7) | LSB` survives. -/
def Obligations.PitchBendIsLsbFirst : Prop :=
  ∀ (s : State) (cable chan : U4) (lsb msb : U7), .pitchBend ∈ s.params.decodeKinds →
    (∃ b0, Presents (.rawEnc 0xE chan lsb msb) s (.ok (.raw b0 (0#1 ++ lsb) (0#1 ++ msb) 3))) ∧
    (∃ b0 b1, Presents (.pktEnc cable 0xE chan lsb msb) s (.ok (.packet b0 b1 (0#1 ++ lsb) (0#1 ++ msb) 4))) ∧
    ∃ m, Presents (.rawDec (0xE#4 ++ chan) (0#1 ++ lsb) (0#1 ++ msb) 3) s (.ok (.message m)) ∧
      Presents (.pktDec (cable ++ 0xE#4) (0xE#4 ++ chan) (0#1 ++ lsb) (0#1 ++ msb) 4) s (.ok (.cabled cable m)) ∧
      m.d1 = lsb ∧ m.d2 = msb ∧ (pitchBend14 m).toNat = 128 * msb.toNat + lsb.toNat

/-! ### Packet codec -/

/-- R190 to R192, R68 (`op` 0x4): header, status, data, zero padding; the header's low nibble is the kind. -/
def Obligations.PktEncFramesTheMessage : Prop :=
  (∀ q : Request, q.op = 0x4 → decode q = .pktEnc q.cable q.kind q.chan q.d1 q.d2) ∧
  ∀ (s : State) (cable kind chan : U4) (d1 d2 : U7),
    Presents (.pktEnc cable kind chan d1 d2) s
      (if kind.toNat < 0x8 ∨ kind = 0xF then .fault (.defect .unrenderableMessage)
      else .ok (.packet (cable ++ kind) (kind ++ chan) (0#1 ++ d1)
        (if kind = 0xC ∨ kind = 0xD then 0x00 else 0#1 ++ d2) 4))

/-- R194, R195 (`op` 0x5): PKT_DEC ends in the cable and the message, or in the first failure, for every value of the
lanes and the count; a request with this `op` is answered so whichever row it decodes to. -/
def Obligations.PktDecReportsTheFirstFailure : Prop :=
  (∀ (s : State) (q : Request) (r : Response), q.op = 0x5 →
    (Presents (decode q) s r ↔ Presents (.pktDec q.pkt0 q.pkt1 q.pkt2 q.pkt3 q.len) s r)) ∧
  ∀ (s : State) (b0 b1 b2 b3 : Byte) (len : U3),
    Presents (.pktDec b0 b1 b2 b3 len) s
      (if len.toNat < 2 then .err .missingDataPacket
      else
        match decodedOrFirstFailure s.params.decodeKinds b1 b2 b3 (min len.toNat 4 - 1) with
        | .ok m => .ok (.cabled (hiNibble b0) m)
        | .error e => .err e)

/-- R194: where PKT_DEC succeeds: enough valid bytes for a kind the unit decodes, and a note of at most 0x7F where the
kind carries one. -/
def Obligations.PktDecUnframesTheMessage : Prop :=
  ∀ (s : State) (cable cin chan : U4) (k : Kind) (d1 d2 : Byte) (len : U3), k ∈ s.params.decodeKinds →
    2 + nData k ≤ len.toNat → (hasNote k = true → d1.toNat ≤ 127) →
    Presents (.pktDec (cable ++ cin) (kindNibble k ++ chan) d1 d2 len) s
      (.ok (.cabled cable ⟨k, chan, saturated d1, if nData k = 2 then saturated d2 else 0⟩))

/-- R196: PKT_DEC does not read the CIN; nor do the packet rows it decodes. -/
def Obligations.PktDecIgnoresTheCin : Prop :=
  (∀ (s : State) (b0 b0' b1 b2 b3 : Byte) (len : U3) (r : Response), hiNibble b0 = hiNibble b0' →
    Presents (.pktDec b0 b1 b2 b3 len) s r → Presents (.pktDec b0' b1 b2 b3 len) s r) ∧
  (∀ (s : State) (q q' : Request) (r : Response), q.op = 0x5 → q' = { q with pkt0 := q'.pkt0 } →
    hiNibble q.pkt0 = hiNibble q'.pkt0 → Presents (decode q) s r → Presents (decode q') s r)

/-- R197: for every value of the lanes and the count, PKT_DEC ends in OK or in one of three errors, never in a fault, and
reads no lane past the count. -/
def Obligations.PktDecIsTotal : Prop :=
  (∀ (s : State) (b0 b1 b2 b3 : Byte) (len : U3),
    (∃ cable m, Presents (.pktDec b0 b1 b2 b3 len) s (.ok (.cabled cable m))) ∨
    Presents (.pktDec b0 b1 b2 b3 len) s (.err .missingDataPacket) ∨
    (∃ b, Presents (.pktDec b0 b1 b2 b3 len) s (.err (.invalidEventType b))) ∨
    ∃ b, Presents (.pktDec b0 b1 b2 b3 len) s (.err (.invalidNote b))) ∧
  (∀ (s : State) (b0 b1 b2 b3 c0 c1 c2 c3 : Byte) (len : U3) (r : Response),
    (1 ≤ len.toNat → b0 = c0) → (2 ≤ len.toNat → b1 = c1) → (3 ≤ len.toNat → b2 = c2) → (4 ≤ len.toNat → b3 = c3) →
    Presents (.pktDec b0 b1 b2 b3 len) s r → Presents (.pktDec c0 c1 c2 c3 len) s r)

/-- R198: an error of the raw decoder inside PKT_DEC ends PKT_DEC with the same code and payload, the byte as it stood in
the packet: the status is packet byte 1, the note packet byte 2. -/
def Obligations.PktDecPropagatesRawErrors : Prop :=
  ∀ (s : State) (b0 b1 b2 b3 : Byte) (len n : U3) (e : Err), 2 ≤ len.toNat → n.toNat = min len.toNat 4 - 1 →
    Presents (.rawDec b1 b2 b3 n) s (.err e) →
    Presents (.pktDec b0 b1 b2 b3 len) s (.err e) ∧ (∀ b, e = .invalidEventType b → b = b1) ∧
      ∀ b, e = .invalidNote b → b = b2

/-- R202: fewer than 2 valid bytes are missing data, whatever the lanes hold. -/
def Obligations.ShortPacketsAreMissingData : Prop :=
  ∀ (s : State) (b0 b1 b2 b3 : Byte) (len : U3), len.toNat < 2 →
    Presents (.pktDec b0 b1 b2 b3 len) s (.err .missingDataPacket)

/-- R199: the packet PKT_ENC makes of a cable and a message, handed back whole, decodes to that cable and message, for
every cable, kind of `P_DECODE_KINDS`, channel and data value. -/
def Obligations.PacketRoundTrip : Prop :=
  ∀ (s s' : State) (cable : U4) (k : Kind) (chan : U4) (d1 d2 : U7), s.params = s'.params →
    k ∈ s.params.decodeKinds →
    ∃ b0 b1 b2 b3 m, Presents (.pktEnc cable (kindNibble k) chan d1 d2) s (.ok (.packet b0 b1 b2 b3 4)) ∧
      Presents (.pktDec b0 b1 b2 b3 4) s' (.ok (.cabled cable m)) ∧
      Presents (decode (packetRequest b0 b1 b2 b3)) s' (.ok (.cabled cable m)) ∧ sameMessage m ⟨k, chan, d1, d2⟩

/-- R200: the CIN of the kind a packet of PKT_ENC decodes to is that packet's header nibble; a packet not made by PKT_ENC
can break this, as `[0x08,0x90,0x24,0x7F]` does. -/
def Obligations.EncodedPacketReproducesItsCin : Prop :=
  (∀ (s : State) (cable kind chan : U4) (d1 d2 : U7) (b0 b1 b2 b3 : Byte) (n : U3) (c : U4) (m : Message) (len : U2),
    Presents (.pktEnc cable kind chan d1 d2) s (.ok (.packet b0 b1 b2 b3 n)) →
    Presents (.pktDec b0 b1 b2 b3 4) s (.ok (.cabled c m)) →
    Presents (.classify (kindNibble m.kind) len) s (.ok (.cin (loNibble b0)))) ∧
  (∀ s : State, .noteOn ∈ s.params.decodeKinds →
    ∃ m, Presents (.pktDec 0x08 0x90 0x24 0x7F 4) s (.ok (.cabled 0 m)) ∧ m.kind = .noteOn ∧
      Presents (.pktEnc 0 (kindNibble m.kind) m.chan m.d1 m.d2) s (.ok (.packet 0x09 0x90 0x24 0x7F 4)))

/-- R201: a canonical packet decodes, and encoding the result gives it back; a packet that decodes but is not canonical
comes back different, with its cable and status byte kept, its CIN corrected to the kind, its data bytes saturated, and
the padding of a one-value kind zeroed. -/
def Obligations.CanonicalPacketsAreTheFixedPoints : Prop :=
  (∀ (s : State) (b0 b1 b2 b3 : Byte), Canonical s.params.decodeKinds b0 b1 b2 b3 →
    ∃ cable m, Presents (.pktDec b0 b1 b2 b3 4) s (.ok (.cabled cable m)) ∧
      Presents (.pktEnc cable (kindNibble m.kind) m.chan m.d1 m.d2) s (.ok (.packet b0 b1 b2 b3 4))) ∧
  (∀ (s : State) (b0 b1 b2 b3 : Byte) (cable : U4) (m : Message), ¬ Canonical s.params.decodeKinds b0 b1 b2 b3 →
    Presents (.pktDec b0 b1 b2 b3 4) s (.ok (.cabled cable m)) →
    ∃ c0 c2 c3, Presents (.pktEnc cable (kindNibble m.kind) m.chan m.d1 m.d2) s (.ok (.packet c0 b1 c2 c3 4)) ∧
      (c0, c2, c3) ≠ (b0, b2, b3) ∧ cable = hiNibble b0 ∧ kindNibble m.kind = hiNibble b1 ∧
      c0 = cable ++ kindNibble m.kind ∧ c2 = 0#1 ++ saturated b2 ∧
      c3 = if nData m.kind = 2 then 0#1 ++ saturated b3 else 0)

/-! ### The packet rows -/

/-- R152 to R154: a complete packet of a kind that carries a Note. That the row is an instruction of its own is the
MODEL'S CHOICE (assumption log 6). -/
def Obligations.PacketRowsOfNoteKinds : Prop :=
  ∀ (s : State) (cable cin chan : U4) (note other : Byte),
    (.noteOff ∈ s.params.decodeKinds → Presents (.pktNoteOff cable cin chan note other) s
      (if note.toNat ≤ 127 then .ok (.cabled cable ⟨.noteOff, chan, BitVec.ofNat 7 note.toNat, saturated other⟩)
      else .err (.invalidNote note))) ∧
    (.noteOn ∈ s.params.decodeKinds → Presents (.pktNoteOn cable cin chan note other) s
      (if note.toNat ≤ 127 then .ok (.cabled cable ⟨.noteOn, chan, BitVec.ofNat 7 note.toNat, saturated other⟩)
      else .err (.invalidNote note))) ∧
    (.polyAftertouch ∈ s.params.decodeKinds → Presents (.pktPolyAftertouch cable cin chan note other) s
      (if note.toNat ≤ 127 then .ok (.cabled cable ⟨.polyAftertouch, chan, BitVec.ofNat 7 note.toNat, saturated other⟩)
      else .err (.invalidNote note)))

/-- R155 to R158: a complete packet of a kind without a Note; byte 3 of a kind with one value is padding, not read. That
the row is an instruction of its own is the MODEL'S CHOICE (assumption log 6). -/
def Obligations.PacketRowsOfClampedKinds : Prop :=
  ∀ (s : State) (cable cin chan : U4) (d1 d2 : Byte),
    (.controlChange ∈ s.params.decodeKinds → Presents (.pktControlChange cable cin chan d1 d2) s
      (.ok (.cabled cable ⟨.controlChange, chan, saturated d1, saturated d2⟩))) ∧
    (.programChange ∈ s.params.decodeKinds → Presents (.pktProgramChange cable cin chan d1 d2) s
      (.ok (.cabled cable ⟨.programChange, chan, saturated d1, 0⟩))) ∧
    (.channelAftertouch ∈ s.params.decodeKinds → Presents (.pktChannelAftertouch cable cin chan d1 d2) s
      (.ok (.cabled cable ⟨.channelAftertouch, chan, saturated d1, 0⟩))) ∧
    (.pitchBend ∈ s.params.decodeKinds → Presents (.pktPitchBend cable cin chan d1 d2) s
      (.ok (.cabled cable ⟨.pitchBend, chan, saturated d1, saturated d2⟩)))

/-- A packet row and PKT_DEC answer alike: the decoder's choice between the two readings of a complete packet changes no
response. -/
def Obligations.PacketRowsAgreeWithPktDec : Prop :=
  ∀ (s : State) (b0 b1 b2 b3 : Byte) (len : U3) (i : Instr) (r : Response), 4 ≤ len.toNat →
    packetRow b0 b1 b2 b3 = some i → (Presents i s r ↔ Presents (.pktDec b0 b1 b2 b3 len) s r)

/-! ### Reserved operations -/

/-- R225: a reserved `op` ends in `Fault(IllegalOp)`, `err` 6 and `err_byte = zext_8(op)`, whatever the other inputs
hold. -/
def Obligations.ReservedOpsAreIllegal : Prop :=
  (∀ (s : State) (q : Request), (q.op = 0 ∨ 0xA ≤ q.op.toNat) → Presents (decode q) s (.fault (.illegalOp q.op))) ∧
  ∀ s : State, Presents .reservedOp0 s (.fault (.illegalOp 0x0)) ∧ Presents .reservedOpA s (.fault (.illegalOp 0xA)) ∧
    Presents .reservedOpB s (.fault (.illegalOp 0xB)) ∧ Presents .reservedOpC s (.fault (.illegalOp 0xC)) ∧
    Presents .reservedOpD s (.fault (.illegalOp 0xD)) ∧ Presents .reservedOpE s (.fault (.illegalOp 0xE)) ∧
    Presents .reservedOpF s (.fault (.illegalOp 0xF))

/-! ### Byte lanes -/

/-- R40: `Get` gives a byte only below the valid count, and a `len_in` above the lane count counts as the lane count. -/
def Obligations.BytesAreReadOnlyBelowTheCount : Prop :=
  (∀ (buf : List Byte) (n i : Nat) (h : i < buf.length), i < n → getByte buf n i = .ok buf[i]) ∧
  (∀ (buf : List Byte) (n i : Nat), n ≤ i → getByte buf n i = .error .missingDataPacket) ∧
  (∀ (s : State) (b0 b1 b2 : Byte) (len : U3) (r : Response), 3 ≤ len.toNat →
    (Presents (.rawDec b0 b1 b2 len) s r ↔ Presents (.rawDec b0 b1 b2 3) s r)) ∧
  (∀ (s : State) (b0 b1 b2 b3 : Byte) (len : U3) (r : Response), 4 ≤ len.toNat →
    (Presents (.pktDec b0 b1 b2 b3 len) s r ↔ Presents (.pktDec b0 b1 b2 b3 4) s r))

/-! ### The cycle and the pipeline -/

/-- R224, R230, R33: no state stops the machine: a fault is a response, and the unit serves the next request whatever the
last outcome was. MODEL'S READING AND CHOICE: that a fault is a next state, where R9 and spec/93 say that the step
returns a fault, is DEDUCED (assumption log 3); and a cycle with unheld inputs, for which D25 says the spec's model has no
step, takes a next state too (assumption log 5 at latency 0, log 10 above it). -/
def Obligations.NoStepStops : Prop :=
  ∀ s : State, ∃ t, step s = .next t

/-- R29 at latency 0: a presented request is answered in its own cycle; without one `rsp_valid` is 0 and nothing is
recorded. MODEL'S CHOICE (assumption log 5): the second clause holds even where other inputs change while the outputs are
sampled, where R255 says that an output is any value. -/
def Obligations.CombinationalCycle : Prop :=
  ∀ (s : State) (c : Cycle) (rest : List Cycle), s.params.latency = 0 → s.host = c :: rest →
    (c.reqValid = true → c.held = true →
      ∃ t r, step s = .next t ∧ t.responses = s.responses ++ [r] ∧ answer? s.params (decode c.req) = some r ∧
        Shows t.out r) ∧
    (c.reqValid = false →
      ∃ t, step s = .next t ∧ t.responses = s.responses ∧ t.faulted = s.faulted ∧ t.out.rspValid = false)

/-- R250: at latency 0 reset is ignored; else a reset edge empties the pipeline, accepts nothing, and answers nothing
that was accepted before it. MODEL'S READING, DEDUCED from R32 (assumption log 8): the record of responses and the
faulted bit survive the reset edge. -/
def Obligations.ResetEdgeDropsThePipeline : Prop :=
  (∀ (s : State) (c : Cycle) (rest : List Cycle), s.params.latency = 0 →
    step { s with host := { c with rst := true } :: rest } = step { s with host := { c with rst := false } :: rest }) ∧
  (∀ (s : State) (c : Cycle) (rest : List Cycle), s.params.latency ≠ 0 → s.host = c :: rest → c.rst = true →
    ∃ t, step s = .next t ∧ t.inflight = [] ∧ t.responses = s.responses ∧ t.faulted = s.faulted ∧
      t.out.rspValid = false ∧ t.host = rest)

/-- MODEL'S CHOICE (assumption log 5; R255 says only that the outputs are any value): a combinational unit sampled while
its inputs change records no response and is not marked faulted. -/
def Obligations.UnheldInputsRecordNothing : Prop :=
  ∀ (s : State) (c : Cycle) (rest : List Cycle), s.params.latency = 0 → s.host = c :: rest → c.reqValid = true →
    c.held = false → ∃ t, step s = .next t ∧ t.responses = s.responses ∧ t.faulted = s.faulted ∧ t.host = rest

/-- R29, R34 at latency above 0: in a cycle in which no response falls, `rsp_valid` is 0, and neither the record nor
`faulted` changes, while the queue ages and the presented request, if any, is captured; and in any cycle whatever
`rsp_valid` is 1 exactly where a response is recorded, so that after a reset edge it stays 0 until a request accepted
after it is answered. MODEL'S CHOICE: past the end of its script the host presents nothing (assumption log 2). PRESUMED in
the first clause: the inputs captured are those of the cycle, whatever `held` says (assumption log 10). -/
def Obligations.RspValidIsZeroUnlessAResponseFalls : Prop :=
  (∀ s : State, s.params.latency ≠ 0 → s.now.rst = false → (∀ e q, s.inflight = e :: q → 1 < e.left) →
    ∃ t, step s = .next t ∧ t.out.rspValid = false ∧ t.responses = s.responses ∧ t.faulted = s.faulted ∧
      t.inflight = (s.inflight.map fun x => ⟨x.left - 1, x.req⟩) ++
        if s.now.reqValid then [⟨s.params.latency, s.now.req⟩] else []) ∧
  (∀ s t : State, s.params.latency ≠ 0 → step s = .next t →
    (t.out.rspValid = true ↔ ∃ r, t.responses = s.responses ++ [r]))

/-- R29 at latency above 0: a request accepted at an edge is answered in the cycle after exactly the `P_LATENCY`-th
following edge, unless a reset comes between. MODEL'S CHOICE: past the end of its script the host drives no reset
(assumption log 2). PRESUMED: the inputs captured are those of the cycle, whatever `held` says (assumption log 10). -/
def Obligations.AnswerComesAfterExactlyTheLatency : Prop :=
  ∀ (s : State) (c : Cycle) (rest : List Cycle), s.params.latency ≠ 0 →
    PipelineOrdered s.params.latency s.inflight → s.host = c :: rest → c.rst = false → c.reqValid = true →
    (∀ d ∈ rest.take s.params.latency, d.rst = false) →
    ∃ t u r, core.run s.params.latency s = .next t ∧ step t = .next u ∧ u.responses = t.responses ++ [r] ∧
      answer? s.params (decode c.req) = some r ∧ Shows u.out r

/-- R29, R50: in a cycle without reset the responses given and those still owed are those of the requests accepted, in
order: none is lost, repeated or overtaken. MODEL'S CHOICE: past the end of its script the host presents nothing
(assumption log 2). PRESUMED: the inputs captured are those of the cycle, whatever `held` says (assumption log 10). -/
def Obligations.ResponsesLeaveInOrderOfAcceptance : Prop :=
  ∀ s t : State, s.params.latency ≠ 0 → s.now.rst = false → step s = .next t →
    t.responses.map some ++ t.inflight.map (fun e => answer? t.params (decode e.req)) =
      s.responses.map some ++ s.inflight.map (fun e => answer? s.params (decode e.req)) ++
        if s.now.reqValid then [answer? s.params (decode s.now.req)] else []

/-- R254, R258: a combinational unit serves a program of requests one a cycle, each with the response it would have
alone, whatever state it starts in. The program as the host's script is the MODEL'S CHOICE (assumption log 2). -/
def Obligations.CombinationalRequestsDoNotInterfere : Prop :=
  ∀ (qs : List Request) (s : State) (rest : List Cycle), s.params.latency = 0 →
    s.host = qs.map presentCycle ++ rest →
    ∃ t, core.run qs.length s = .next t ∧ t.host = rest ∧ t.params = s.params ∧
      t.responses.map some = s.responses.map some ++ qs.map fun q => answer? s.params (decode q)

/-- Every step keeps the pipeline's order, and with it the bound on when each response comes. -/
def Obligations.StepKeepsThePipelineOrdered : Prop :=
  ∀ s t : State, PipelineOrdered s.params.latency s.inflight → step s = .next t →
    PipelineOrdered t.params.latency t.inflight

/-- R32: the pipeline is at most `P_LATENCY` deep, in every state whose pipeline is ordered. -/
def Obligations.PipelineIsAtMostLatencyDeep : Prop :=
  ∀ (latency : Nat) (q : List InFlight), PipelineOrdered latency q → q.length ≤ latency

/-- R32, R224: every step keeps `faulted` true exactly when a recorded response is a fault, and never clears it. -/
def Obligations.StepKeepsFaultedRecorded : Prop :=
  ∀ s t : State, step s = .next t → (FaultedIsRecorded s → FaultedIsRecorded t) ∧ (s.faulted = true → t.faulted = true)

/-- The invariant holds at reset. -/
def Obligations.ResetMeetsTheInvariant : Prop :=
  Inv State.reset

/-- R23: no step changes the build parameters, which the model carries in the state (MODEL'S CHOICE, assumption log 1); at
most one response is added in a cycle, and none is taken back, at a reset edge neither (DEDUCED from R32, assumption log
8), nor in a cycle with unheld inputs (MODEL'S CHOICE, assumption log 5). -/
def Obligations.StepOnlyAddsToTheRecord : Prop :=
  ∀ s t : State, step s = .next t →
    t.params = s.params ∧ ∃ added, t.responses = s.responses ++ added ∧ added.length ≤ 1
end

