-- ==== Sys2Proof/Laws/State.lean ====
section
/-! SUPPORT. One lemma per field per update of the state. -/

namespace Sys2Proof.Machine

@[simp] theorem State.respond_params (s : State) (r : Response) : (s.respond r).params = s.params := rfl
@[simp] theorem State.respond_host (s : State) (r : Response) : (s.respond r).host = s.host := rfl
@[simp] theorem State.respond_inflight (s : State) (r : Response) : (s.respond r).inflight = s.inflight := rfl
@[simp] theorem State.respond_responses (s : State) (r : Response) : (s.respond r).responses = s.responses ++ [r] := rfl
@[simp] theorem State.respond_faulted (s : State) (r : Response) : (s.respond r).faulted = (s.faulted || isFault r) := rfl
@[simp] theorem State.respond_out (s : State) (r : Response) : (s.respond r).out = drive (Config.freePorts s.draws) r := rfl
@[simp] theorem State.respond_draws (s : State) (r : Response) : (s.respond r).draws = s.draws + 1 := rfl

@[simp] theorem State.quiet_params (s : State) : s.quiet.params = s.params := rfl
@[simp] theorem State.quiet_host (s : State) : s.quiet.host = s.host := rfl
@[simp] theorem State.quiet_inflight (s : State) : s.quiet.inflight = s.inflight := rfl
@[simp] theorem State.quiet_responses (s : State) : s.quiet.responses = s.responses := rfl
@[simp] theorem State.quiet_faulted (s : State) : s.quiet.faulted = s.faulted := rfl
@[simp] theorem State.quiet_out (s : State) : s.quiet.out = { Config.freePorts s.draws with rspValid := false } := rfl
@[simp] theorem State.quiet_draws (s : State) : s.quiet.draws = s.draws + 1 := rfl

@[simp] theorem State.unsettled_params (s : State) : s.unsettled.params = s.params := rfl
@[simp] theorem State.unsettled_host (s : State) : s.unsettled.host = s.host := rfl
@[simp] theorem State.unsettled_inflight (s : State) : s.unsettled.inflight = s.inflight := rfl
@[simp] theorem State.unsettled_responses (s : State) : s.unsettled.responses = s.responses := rfl
@[simp] theorem State.unsettled_faulted (s : State) : s.unsettled.faulted = s.faulted := rfl
@[simp] theorem State.unsettled_out (s : State) : s.unsettled.out = Config.freePorts s.draws := rfl
@[simp] theorem State.unsettled_draws (s : State) : s.unsettled.draws = s.draws + 1 := rfl

@[simp] theorem State.later_params (s : State) : s.later.params = s.params := rfl
@[simp] theorem State.later_host (s : State) : s.later.host = s.host.drop 1 := rfl
@[simp] theorem State.later_inflight (s : State) : s.later.inflight = s.inflight := rfl
@[simp] theorem State.later_responses (s : State) : s.later.responses = s.responses := rfl
@[simp] theorem State.later_faulted (s : State) : s.later.faulted = s.faulted := rfl
@[simp] theorem State.later_out (s : State) : s.later.out = s.out := rfl
@[simp] theorem State.later_draws (s : State) : s.later.draws = s.draws := rfl

@[simp] theorem State.reset_params : State.reset.params = Config.specParams := rfl
@[simp] theorem State.reset_host : State.reset.host = [] := rfl
@[simp] theorem State.reset_inflight : State.reset.inflight = [] := rfl
@[simp] theorem State.reset_responses : State.reset.responses = [] := rfl
@[simp] theorem State.reset_faulted : State.reset.faulted = false := rfl
@[simp] theorem State.reset_out : State.reset.out = { Config.freePorts 0 with rspValid := false } := rfl
@[simp] theorem State.reset_draws : State.reset.draws = 1 := rfl

/-- What the cycle leaves alone: everything but the host's script and the pipeline. -/
theorem State.cycle_frame (s : State) :
    s.cycle.2.params = s.params ∧ s.cycle.2.responses = s.responses ∧ s.cycle.2.faulted = s.faulted ∧
      s.cycle.2.out = s.out ∧ s.cycle.2.draws = s.draws ∧ s.cycle.2.host = s.host.drop 1 := by
  unfold State.cycle
  split
  · simp
  · split <;> simp

end Sys2Proof.Machine
end

