-- ==== Sys2Proof/Laws/Ops.lean ====
section
/-! SUPPORT. What each shared operation does, said once: fields, operand checks, the driving of the ports, the pipeline. -/

namespace Sys2Proof

/-! ### Fields -/

@[simp] theorem hiNibble_joinNibbles (hi lo : U4) : hiNibble (joinNibbles hi lo) = hi := by
  revert hi lo; decide

@[simp] theorem loNibble_joinNibbles (hi lo : U4) : loNibble (joinNibbles hi lo) = lo := by
  revert hi lo; decide

@[simp] theorem joinNibbles_nibbles (b : Byte) : joinNibbles (hiNibble b) (loNibble b) = b := by
  revert b; decide

@[simp] theorem kindOfNibble_kindNibble (k : Kind) : kindOfNibble (kindNibble k) = some k := by
  cases k <;> rfl

theorem kindNibble_of_kindOfNibble {n : U4} {k : Kind} (h : kindOfNibble n = some k) : kindNibble k = n := by
  cases k <;> revert h <;> revert n <;> decide

theorem isVoiceStatus_iff (b : Byte) : isVoiceStatus b = (kindOfNibble (hiNibble b)).isSome := by
  revert b; decide

end Sys2Proof

namespace Sys2Proof.Machine

open Sys2Proof.Safety

/-! ### Operands -/

theorem getByte_of_lt {buf : List Byte} {n i : Nat} (hn : i < n) (hb : i < buf.length) :
    getByte buf n i = .ok buf[i] := by
  simp [getByte, hn, hb]

theorem getByte_of_le {buf : List Byte} {n i : Nat} (h : n ≤ i) : getByte buf n i = .error .missingDataPacket := by
  simp [getByte, Nat.not_lt.2 h]

theorem clamp7_eq_saturated (b : Byte) : clamp7 b = saturated b := by
  revert b; decide

theorem clamp7_zextSeven (v : U7) : clamp7 (zextSeven v) = v := by
  revert v; decide

theorem strictNote_zextSeven (v : U7) : strictNote (zextSeven v) = .ok v := by
  have h : ∀ v : U7, ¬ 0x7F < (zextSeven v).toNat ∧ lowSeven (zextSeven v) = v := by decide
  simp [strictNote, h v]

theorem strictNote_cases (b : Byte) :
    (b.toNat ≤ 127 ∧ strictNote b = .ok (clamp7 b)) ∨ (127 < b.toNat ∧ strictNote b = .error (.invalidNote b)) := by
  unfold strictNote clamp7
  split <;> simp <;> omega

/-- A kind is recognised exactly when `P_DECODE_KINDS` has it and the nibble is its own. -/
theorem recognised_eq_some {kinds : List Kind} {n : U4} {k : Kind} :
    recognised kinds n = some k ↔ k ∈ kinds ∧ kindNibble k = n := by
  unfold recognised
  constructor
  · intro h
    split at h
    · rename_i k' hk
      split at h
      · cases h; exact ⟨‹_›, kindNibble_of_kindOfNibble hk⟩
      · cases h
    · cases h
  · rintro ⟨hk, rfl⟩
    simp [hk]

theorem recognised_eq_none {kinds : List Kind} {n : U4} :
    recognised kinds n = none ↔ ∀ k ∈ kinds, kindNibble k ≠ n := by
  constructor
  · intro h k hk hn
    rw [(recognised_eq_some.2 ⟨hk, hn⟩ : recognised kinds n = some k)] at h
    cases h
  · intro h
    cases hr : recognised kinds n with
    | none => rfl
    | some k => exact absurd (recognised_eq_some.1 hr).2 (h k (recognised_eq_some.1 hr).1)

/-! ### The decoder's data bytes, in closed form -/

/-- A kind that carries a Note (spec/42_raw_codec.md R152 to R154, R159, R160). -/
theorem decodeNoteBody_eq (k : Kind) (chan : U4) (b0 b1 b2 : Byte) (n : Nat) :
    decodeNoteBody k chan [b0, b1, b2] n =
      if n < 2 then .error .missingDataPacket
      else if 127 < b1.toNat then .error (.invalidNote b1)
      else if n < 3 then .error .missingDataPacket
      else .ok ⟨k, chan, saturated b1, saturated b2⟩ := by
  unfold decodeNoteBody
  by_cases h1 : n < 2
  · rw [getByte_of_le (by omega), if_pos h1]; rfl
  · rw [getByte_of_lt (by omega) (by simp), if_neg h1]
    rcases strictNote_cases b1 with ⟨hb, hs⟩ | ⟨hb, hs⟩
    · by_cases h2 : n < 3
      · rw [getByte_of_le (by omega), if_neg (by omega), if_pos h2]
        simp [bind, Except.bind, hs]
      · rw [getByte_of_lt (by omega) (by simp), if_neg (by omega), if_neg h2]
        simp [bind, Except.bind, pure, Except.pure, hs, clamp7_eq_saturated]
    · rw [if_pos hb]
      simp [bind, Except.bind, hs]

/-- A kind with two values and no Note (spec/42_raw_codec.md R155, R158, R160). -/
theorem decodePairBody_eq (k : Kind) (chan : U4) (b0 b1 b2 : Byte) (n : Nat) :
    decodePairBody k chan [b0, b1, b2] n =
      if n < 3 then .error .missingDataPacket else .ok ⟨k, chan, saturated b1, saturated b2⟩ := by
  unfold decodePairBody
  by_cases h1 : n < 2
  · rw [getByte_of_le (by omega), if_pos (by omega)]; rfl
  · rw [getByte_of_lt (by omega) (by simp)]
    by_cases h2 : n < 3
    · rw [getByte_of_le (by omega), if_pos h2]; rfl
    · rw [getByte_of_lt (by omega) (by simp), if_neg h2]
      simp [bind, Except.bind, pure, Except.pure, clamp7_eq_saturated]

/-- A kind with one value (spec/42_raw_codec.md R156, R157, R160). -/
theorem decodeSingleBody_eq (k : Kind) (chan : U4) (b0 b1 b2 : Byte) (n : Nat) :
    decodeSingleBody k chan [b0, b1, b2] n =
      if n < 2 then .error .missingDataPacket else .ok ⟨k, chan, saturated b1, 0⟩ := by
  unfold decodeSingleBody
  by_cases h1 : n < 2
  · rw [getByte_of_le (by omega), if_pos h1]; rfl
  · rw [getByte_of_lt (by omega) (by simp), if_neg h1]
    simp [bind, Except.bind, pure, Except.pure, clamp7_eq_saturated]

/-! ### The output ports -/

theorem zextNibble_eq_append (v : U4) : zextNibble v = 0#4 ++ v := by
  revert v; decide

/-- Driving a response puts it on the ports, whatever the undefined ports hold. -/
theorem shows_drive (free : OutPorts) (r : Response) : Shows (drive free r) r := by
  refine ⟨rfl, ?_⟩
  cases r with
  | ok o => cases o <;> exact ⟨rfl, by simp [ShowsOutputs, drive, driveResult, driveOutputs, driveMessage]⟩
  | err e => cases e <;> simp [ShowsOutcome, drive, errCode, errorCode, errPayload, errorByte]
  | fault f =>
    cases f with
    | defect d => cases d <;> exact ⟨rfl, rfl⟩
    | illegalOp op => exact ⟨rfl, by simp [drive, errPayload, faultByte, zextNibble_eq_append]⟩

/-- Recording a response marks the run exactly when it is a fault. -/
theorem respond_faulted_iff (s : State) (r : Response) :
    (s.respond r).faulted = true ↔ s.faulted = true ∨ ∃ f, r = .fault f := by
  cases r <;> simp [isFault]

/-- The one way an instruction completes: what `respond` leaves is what `Presents` asks for. -/
theorem presents_of_exec {i : Instr} {s : State} {r : Response} (h : exec i s = .next (s.respond r)) :
    Presents i s r :=
  ⟨s.respond r, h, rfl, respond_faulted_iff s r, shows_drive _ r, rfl, rfl, rfl⟩

/-! ### The pipeline -/

/-- Every request in flight still has an edge to wait and at most `latency`, in strict order: this survives an edge. -/
theorem pipelineOrdered_afterEdge {latency : Nat} {q : List InFlight} (h : PipelineOrdered latency q) :
    PipelineOrdered (latency - 1) (afterEdge q) := by
  cases q with
  | nil => exact ⟨.nil, by simp [afterEdge]⟩
  | cons e rest =>
    obtain ⟨hs, hb⟩ := h
    have he := hb e (by simp)
    have hr : ∀ x ∈ rest, e.left < x.left ∧ x.left ≤ latency := fun x hx =>
      ⟨List.rel_of_pairwise_cons hs hx, (hb x (by simp [hx])).2⟩
    have ordered : ∀ l : List InFlight, l.Pairwise (fun a b => a.left < b.left) →
        (∀ x ∈ l, 2 ≤ x.left ∧ x.left ≤ latency) → PipelineOrdered (latency - 1) (ageAll l) := by
      intro l hl hx
      refine ⟨?_, ?_⟩
      · refine List.pairwise_map.2 (hl.imp_of_mem ?_)
        intro a b ha hb hab
        have := hx a ha; have := hx b hb; simp; omega
      · intro x hxm
        obtain ⟨y, hy, rfl⟩ := List.mem_map.1 hxm
        have := hx y hy; simp; omega
    by_cases hd : e.left ≤ 1
    · rw [show afterEdge (e :: rest) = ageAll rest by simp [afterEdge, hd]]
      exact ordered rest (List.Pairwise.of_cons hs) fun x hx => by have := hr x hx; omega
    · rw [show afterEdge (e :: rest) = ageAll (e :: rest) by simp [afterEdge, hd]]
      refine ordered (e :: rest) hs fun x hx => ?_
      rcases List.mem_cons.1 hx with rfl | hx
      · omega
      · have := hr x hx; omega

end Sys2Proof.Machine
end

