-- ==== Sys2Proof/Laws/Exec.lean ====
section
/-! SUPPORT. What `exec` can do, said once, and what a cycle and a step can do. -/

namespace Sys2Proof.Machine

open Sys2Proof.Safety

/-- The response to each instruction, by a unit built with `p`. -/
def reply (p : Params) : Instr → Response
  | .classify kind slen => responseOrDefect (replyClassify kind slen)
  | .rawEnc kind chan d1 d2 => responseOrDefect (replyRawEnc kind chan d1 d2)
  | .rawDec b0 b1 b2 len => responseOf (replyRawDec p.decodeKinds b0 b1 b2 len)
  | .pktEnc cable kind chan d1 d2 => responseOrDefect (replyPktEnc cable kind chan d1 d2)
  | .pktDec b0 b1 b2 b3 len => responseOf (replyPktDec p.decodeKinds b0 b1 b2 b3 len)
  | .noteStrict b => responseOf (replyNoteStrict b)
  | .u7Clamp b => .ok (.value (zextSeven (clamp7 b)))
  | .cableStrict b => responseOf (replyCableStrict b)
  | .chanOfStatus b => .ok (.value (zextNibble (loNibble b)))
  | .reservedOp0 => illegalOp 0x0
  | .reservedOpA => illegalOp 0xA
  | .reservedOpB => illegalOp 0xB
  | .reservedOpC => illegalOp 0xC
  | .reservedOpD => illegalOp 0xD
  | .reservedOpE => illegalOp 0xE
  | .reservedOpF => illegalOp 0xF
  | .pktNoteOff cable _ chan d1 d2 => responseOf (replyPacketRow p.decodeKinds .noteOff cable chan d1 d2)
  | .pktNoteOn cable _ chan d1 d2 => responseOf (replyPacketRow p.decodeKinds .noteOn cable chan d1 d2)
  | .pktPolyAftertouch cable _ chan d1 d2 => responseOf (replyPacketRow p.decodeKinds .polyAftertouch cable chan d1 d2)
  | .pktControlChange cable _ chan d1 d2 => responseOf (replyPacketRow p.decodeKinds .controlChange cable chan d1 d2)
  | .pktProgramChange cable _ chan d1 d2 => responseOf (replyPacketRow p.decodeKinds .programChange cable chan d1 d2)
  | .pktChannelAftertouch cable _ chan d1 d2 =>
    responseOf (replyPacketRow p.decodeKinds .channelAftertouch cable chan d1 d2)
  | .pktPitchBend cable _ chan d1 d2 => responseOf (replyPacketRow p.decodeKinds .pitchBend cable chan d1 d2)

/-- Everything an instruction can do: it presents its response. -/
theorem exec_eq (i : Instr) (s : State) : exec i s = .next (s.respond (reply s.params i)) := by
  cases i <;> rfl

/-- An instruction presents exactly its response. -/
theorem presents_iff {i : Instr} {s : State} {r : Response} : Presents i s r ↔ reply s.params i = r := by
  constructor
  · rintro ⟨t, ht, hr, -⟩
    rw [exec_eq] at ht
    cases ht
    simpa using hr
  · rintro rfl
    exact presents_of_exec (exec_eq i s)

theorem answer?_eq (p : Params) (i : Instr) : answer? p i = some (reply p i) := by
  simp [answer?, exec_eq]

/-- What one cycle can do, on a combinational unit and on a pipelined one. -/
theorem cycle_cases (s : State) :
    (s.params.latency = 0 ∧ s.cycle = (serviceNow s.now, s.later)) ∨
    (s.params.latency ≠ 0 ∧ s.now.rst = true ∧ s.cycle = (.quiet, { s.later with inflight := [] })) ∨
    (∃ r, s.params.latency ≠ 0 ∧ s.now.rst = false ∧ dueNow s.inflight = some r ∧
      s.cycle = (.answer r, { s.later with inflight := accept s.params.latency s.now (afterEdge s.inflight) })) ∨
    (s.params.latency ≠ 0 ∧ s.now.rst = false ∧ dueNow s.inflight = none ∧
      s.cycle = (.quiet, { s.later with inflight := accept s.params.latency s.now (afterEdge s.inflight) })) := by
  unfold State.cycle
  by_cases hl : s.params.latency = 0
  · simp [hl]
  · by_cases hr : s.now.rst = true
    · simp [hl, hr]
    · cases hd : dueNow s.inflight <;> simp [hl, hr]

/-- A step of a combinational unit (spec/10_state.md R29). -/
theorem step_combinational {s : State} (hl : s.params.latency = 0) :
    step s = match serviceNow s.now with
      | .answer r => .next (s.later.respond (reply s.params (decode r)))
      | .quiet => .next s.later.quiet
      | .unsettled => .next s.later.unsettled := by
  simp only [step, State.cycle, hl, if_true]
  cases serviceNow s.now <;> simp [exec_eq]

/-- A reset edge of a pipelined unit (spec/70_reset_and_hazards.md R250). -/
theorem step_reset {s : State} (hl : s.params.latency ≠ 0) (hr : s.now.rst = true) :
    step s = .next (State.quiet { s.later with inflight := [] }) := by
  simp [step, State.cycle, hl, hr]

/-- Any other edge of a pipelined unit (spec/10_state.md R29). -/
theorem step_pipelined {s : State} (hl : s.params.latency ≠ 0) (hr : s.now.rst = false) :
    step s = match dueNow s.inflight with
      | some r =>
        .next (State.respond { s.later with inflight := accept s.params.latency s.now (afterEdge s.inflight) }
          (reply s.params (decode r)))
      | none => .next (State.quiet { s.later with inflight := accept s.params.latency s.now (afterEdge s.inflight) }) := by
  cases hd : dueNow s.inflight <;> simp [step, State.cycle, hl, hr, hd, exec_eq]

/-- What one step can do: execute the request of this cycle, or none. -/
theorem step_cases (s : State) :
    (∃ r, s.cycle.1 = .answer r ∧ step s = exec (decode r) s.cycle.2) ∨
    (s.cycle.1 = .quiet ∧ step s = .next s.cycle.2.quiet) ∨
    (s.cycle.1 = .unsettled ∧ step s = .next s.cycle.2.unsettled) := by
  unfold step
  rcases h : s.cycle with ⟨v, t⟩
  cases v <;> simp

end Sys2Proof.Machine
end

