-- ==== Sys2Proof/Laws/PerInstr.lean ====
section
/-! SUPPORT. A statement about every instruction as syntax: its encoding matches its own row of the opcode table and no
other row of that format. -/

namespace Sys2Proof.Laws.RowMatch

open Sys2Proof

/-- The format of an instruction's row. -/
def format : Instr → Format
  | .classify _ _ => .cmd
  | .rawEnc _ _ _ _ => .cmd
  | .rawDec _ _ _ _ => .cmd
  | .pktEnc _ _ _ _ _ => .cmd
  | .pktDec _ _ _ _ _ => .cmd
  | .noteStrict _ => .cmd
  | .u7Clamp _ => .cmd
  | .cableStrict _ => .cmd
  | .chanOfStatus _ => .cmd
  | .reservedOp0 => .cmd
  | .reservedOpA => .cmd
  | .reservedOpB => .cmd
  | .reservedOpC => .cmd
  | .reservedOpD => .cmd
  | .reservedOpE => .cmd
  | .reservedOpF => .cmd
  | .pktNoteOff _ _ _ _ _ => .pkt
  | .pktNoteOn _ _ _ _ _ => .pkt
  | .pktPolyAftertouch _ _ _ _ _ => .pkt
  | .pktControlChange _ _ _ _ _ => .pkt
  | .pktProgramChange _ _ _ _ _ => .pkt
  | .pktChannelAftertouch _ _ _ _ _ => .pkt
  | .pktPitchBend _ _ _ _ _ => .pkt

/-- The encoded instruction, as the word its format has, is accepted by exactly one row of that format, and that row
carries its mnemonic. -/
def Statement (i : Instr) : Prop :=
  (rowsOf (format i) (tableWord (format i) (encode i))).map Row.mnemonic = [mnemonic i]

/-- The packet rows look at the status byte's top nibble alone, bits 23:20 of the packet written as one number
(spec/20_memory.md R45). -/
theorem packetWord_mask (b0 b1 b2 b3 : Byte) :
    packetWord b0 b1 b2 b3 &&& 0x00F00000 = packetWord 0 (b1 &&& 0xF0) 0 0 := by
  change (b0 ++ b1 ++ b2 ++ b3 : BitVec (8 + 8 + 8 + 8)) &&& (((0#8 ++ 0xF0#8) ++ 0#8) ++ 0#8) = _
  rw [BitVec.and_append, BitVec.and_append, BitVec.and_append]
  simp [packetWord]

theorem statusByte_mask (k : Kind) (chan : U4) : statusByte k chan &&& 0xF0 = joinNibbles (kindNibble k) 0 := by
  cases k <;> revert chan <;> decide

/-- The one row a complete packet of a kind matches. -/
theorem rowsOf_packet (k : Kind) (b0 b2 b3 : Byte) (chan : U4) :
    rowsOf .pkt (packetWord b0 (statusByte k chan) b2 b3) = rowsOf .pkt (packetWord 0 (joinNibbles (kindNibble k) 0) 0 0) := by
  have h : ∀ row ∈ opcodeTable, row.format = .pkt → row.mask = 0x00F00000 := by decide
  refine List.filter_congr fun row hrow => ?_
  cases hf : row.format
  · rfl
  · unfold Row.accepts
    rw [h row hrow hf, packetWord_mask, packetWord_mask, statusByte_mask]
    cases k <;> rfl

/-- A request of format CMD is matched by the row of its `op`. -/
theorem of_op {i : Instr} (op : U4) (hf : format i = .cmd) (ho : (encode i).op = op)
    (h : (rowsOf .cmd (op.setWidth 32)).map Row.mnemonic = [mnemonic i]) : Statement i := by
  unfold Statement
  rw [hf]
  exact (congrArg (fun o : U4 => (rowsOf .cmd (o.setWidth 32)).map Row.mnemonic) ho).trans h

/-! One lemma per constructor. -/

theorem classify (kind : U4) (slen : U2) : Statement (.classify kind slen) := of_op 0x1 rfl rfl (by rfl)
theorem rawEnc (kind chan : U4) (d1 d2 : U7) : Statement (.rawEnc kind chan d1 d2) := of_op 0x2 rfl rfl (by rfl)
theorem rawDec (b0 b1 b2 : Byte) (len : U3) : Statement (.rawDec b0 b1 b2 len) := of_op 0x3 rfl rfl (by rfl)
theorem pktEnc (cable kind chan : U4) (d1 d2 : U7) : Statement (.pktEnc cable kind chan d1 d2) := of_op 0x4 rfl rfl (by rfl)
theorem pktDec (b0 b1 b2 b3 : Byte) (len : U3) : Statement (.pktDec b0 b1 b2 b3 len) := of_op 0x5 rfl rfl (by rfl)
theorem noteStrict (b : Byte) : Statement (.noteStrict b) := of_op 0x6 rfl rfl (by rfl)
theorem u7Clamp (b : Byte) : Statement (.u7Clamp b) := of_op 0x7 rfl rfl (by rfl)
theorem cableStrict (b : Byte) : Statement (.cableStrict b) := of_op 0x8 rfl rfl (by rfl)
theorem chanOfStatus (b : Byte) : Statement (.chanOfStatus b) := of_op 0x9 rfl rfl (by rfl)
theorem reservedOp0 : Statement .reservedOp0 := of_op 0x0 rfl rfl (by rfl)
theorem reservedOpA : Statement .reservedOpA := of_op 0xA rfl rfl (by rfl)
theorem reservedOpB : Statement .reservedOpB := of_op 0xB rfl rfl (by rfl)
theorem reservedOpC : Statement .reservedOpC := of_op 0xC rfl rfl (by rfl)
theorem reservedOpD : Statement .reservedOpD := of_op 0xD rfl rfl (by rfl)
theorem reservedOpE : Statement .reservedOpE := of_op 0xE rfl rfl (by rfl)
theorem reservedOpF : Statement .reservedOpF := of_op 0xF rfl rfl (by rfl)
theorem pktNoteOff (cable cin chan : U4) (note velocity : Byte) : Statement (.pktNoteOff cable cin chan note velocity) :=
  (congrArg (List.map Row.mnemonic) (rowsOf_packet .noteOff (joinNibbles cable cin) note velocity chan)).trans (by rfl)
theorem pktNoteOn (cable cin chan : U4) (note velocity : Byte) : Statement (.pktNoteOn cable cin chan note velocity) :=
  (congrArg (List.map Row.mnemonic) (rowsOf_packet .noteOn (joinNibbles cable cin) note velocity chan)).trans (by rfl)
theorem pktPolyAftertouch (cable cin chan : U4) (note pressure : Byte) : Statement (.pktPolyAftertouch cable cin chan note pressure) :=
  (congrArg (List.map Row.mnemonic) (rowsOf_packet .polyAftertouch (joinNibbles cable cin) note pressure chan)).trans (by rfl)
theorem pktControlChange (cable cin chan : U4) (control value : Byte) : Statement (.pktControlChange cable cin chan control value) :=
  (congrArg (List.map Row.mnemonic) (rowsOf_packet .controlChange (joinNibbles cable cin) control value chan)).trans (by rfl)
theorem pktProgramChange (cable cin chan : U4) (program pad : Byte) : Statement (.pktProgramChange cable cin chan program pad) :=
  (congrArg (List.map Row.mnemonic) (rowsOf_packet .programChange (joinNibbles cable cin) program pad chan)).trans (by rfl)
theorem pktChannelAftertouch (cable cin chan : U4) (pressure pad : Byte) : Statement (.pktChannelAftertouch cable cin chan pressure pad) :=
  (congrArg (List.map Row.mnemonic) (rowsOf_packet .channelAftertouch (joinNibbles cable cin) pressure pad chan)).trans (by rfl)
theorem pktPitchBend (cable cin chan : U4) (lsb msb : Byte) : Statement (.pktPitchBend cable cin chan lsb msb) :=
  (congrArg (List.map Row.mnemonic) (rowsOf_packet .pitchBend (joinNibbles cable cin) lsb msb chan)).trans (by rfl)

end Sys2Proof.Laws.RowMatch
end

