-- ==== Sys2Proof/Tests/Slice0.lean ====
section
/-! SUPPORT. The model's own tests: well-formedness, decoding of words written out from the spec, one step per test with
results from spec/95_test_vectors.md, and the witnesses of the obligations' hypotheses. -/

namespace Sys2Proof.Tests

open Sys2Proof.Machine Sys2Proof.Safety

/-! ### Helpers -/

/-- A unit built with the given parameters, at the start of a run. -/
def unit (kinds : List Kind) (latency : Nat) : State := { State.reset with params := ⟨kinds, latency⟩ }

/-- The minimal decoder of spec/90_conflicts.md C2. -/
def minimal : State := unit [.noteOff, .noteOn] 0

/-- The response and the driven `err` of the next step, when it serves a request. -/
def served (s : State) (q : Request) : Option (Response × U3) :=
  match step (s.aboutToServe q) with
  | .next t => t.responses.getLast?.map fun r => (r, t.out.err)
  | .fault _ => none
  | .refused _ => none

/-- PKT_DEC of a packet and a count. -/
def pktDec (b0 b1 b2 b3 : Byte) (len : U3) : Request := { packetRequest b0 b1 b2 b3 with len := len }

/-- RAW_DEC of raw bytes and a count. -/
def rawDec (b0 b1 b2 : Byte) (len : U3) : Request :=
  { Request.zero with op := 0x3, pkt0 := b0, pkt1 := b1, pkt2 := b2, len := len }

/-! ### Well-formedness: the one check refuses a complete packet of a voice kind written as PKT_DEC -/

theorem test_wf_refuses_complete_packet : (Instr.pktDec 0x09 0x90 0x24 0x7F 4).wf = false := by decide
theorem test_wf_refuses_long_count : (Instr.pktDec 0x0E 0xEF 0x24 0x7F 7).wf = false := by decide
theorem test_wf_accepts_short_packet : (Instr.pktDec 0x09 0x90 0x24 0x7F 3).wf = true := by decide
theorem test_wf_accepts_no_kind : (Instr.pktDec 0x0F 0xF8 0 0 4).wf = true := by decide

/-! ### Decoding: each row's word, bit by bit from its encoding pattern -/

theorem test_word_classify : decodeTableWord 8 0b0001 = some (.classify 0 0) := by decide
theorem test_word_raw_enc : decodeTableWord 8 0b0010 = some (.rawEnc 0 0 0 0) := by decide
theorem test_word_raw_dec : decodeTableWord 8 0b0011 = some (.rawDec 0 0 0 0) := by decide
theorem test_word_pkt_enc : decodeTableWord 8 0b0100 = some (.pktEnc 0 0 0 0 0) := by decide
theorem test_word_pkt_dec : decodeTableWord 8 0b0101 = some (.pktDec 0 0 0 0 0) := by decide
theorem test_word_note_strict : decodeTableWord 8 0b0110 = some (.noteStrict 0) := by decide
theorem test_word_u7_clamp : decodeTableWord 8 0b0111 = some (.u7Clamp 0) := by decide
theorem test_word_cable_strict : decodeTableWord 8 0b1000 = some (.cableStrict 0) := by decide
theorem test_word_chan_of_status : decodeTableWord 8 0b1001 = some (.chanOfStatus 0) := by decide
theorem test_words_reserved :
    decodeTableWord 8 0b0000 = some .reservedOp0 ∧ decodeTableWord 8 0b1010 = some .reservedOpA ∧
    decodeTableWord 8 0b1011 = some .reservedOpB ∧ decodeTableWord 8 0b1100 = some .reservedOpC ∧
    decodeTableWord 8 0b1101 = some .reservedOpD ∧ decodeTableWord 8 0b1110 = some .reservedOpE ∧
    decodeTableWord 8 0b1111 = some .reservedOpF := by decide

/-! cable 5, CIN 3, channel 6, data bytes 0x81 and 0x42: every field distinct. -/

theorem test_word_note_off :
    decodeTableWord 32 0b01010011100001101000000101000010 = some (.pktNoteOff 5 3 6 0x81 0x42) := by decide
theorem test_word_note_on :
    decodeTableWord 32 0b01010011100101101000000101000010 = some (.pktNoteOn 5 3 6 0x81 0x42) := by decide
theorem test_word_poly_aftertouch :
    decodeTableWord 32 0b01010011101001101000000101000010 = some (.pktPolyAftertouch 5 3 6 0x81 0x42) := by decide
theorem test_word_control_change :
    decodeTableWord 32 0b01010011101101101000000101000010 = some (.pktControlChange 5 3 6 0x81 0x42) := by decide
theorem test_word_program_change :
    decodeTableWord 32 0b01010011110001101000000101000010 = some (.pktProgramChange 5 3 6 0x81 0x42) := by decide
theorem test_word_channel_aftertouch :
    decodeTableWord 32 0b01010011110101101000000101000010 = some (.pktChannelAftertouch 5 3 6 0x81 0x42) := by decide
theorem test_word_pitch_bend :
    decodeTableWord 32 0b01010011111001101000000101000010 = some (.pktPitchBend 5 3 6 0x81 0x42) := by decide
theorem test_word_without_row :
    decodeTableWord 32 0b00001111111110000000000000000000 = some (.pktDec 0x0F 0xF8 0 0 4) := by decide

/-! ### One step each, against spec/95_test_vectors.md -/

theorem test_classify_V29 :
    served .reset { Request.zero with op := 1, kind := 1, slen := 2 } = some (.ok (.cin 0x2), 0) := by decide
theorem test_classify_V36 :
    served .reset { Request.zero with op := 1, kind := 3 } = some (.fault (.defect .undeterminedLength), 5) := by decide
theorem test_raw_enc_V46 :
    served .reset { Request.zero with op := 2, kind := 0xC, d1 := 127, d2 := 99 } =
      some (.ok (.raw 0xC0 0x7F 0x00 2), 0) := by decide
theorem test_raw_enc_V52 :
    served .reset { Request.zero with op := 2, kind := 0xE, chan := 15, d2 := 127 } =
      some (.ok (.raw 0xEF 0x00 0x7F 3), 0) := by decide
theorem test_raw_dec_V66 :
    served .reset (rawDec 0xB0 0x80 0xFF 3) = some (.ok (.message ⟨.controlChange, 0, 127, 127⟩), 0) := by decide
theorem test_raw_dec_V76 : served .reset (rawDec 0x90 0xFF 0 2) = some (.err (.invalidNote 255), 3) := by decide
theorem test_pkt_enc_V106 :
    served .reset { Request.zero with op := 4, cable := 15, kind := 0xC, chan := 15, d2 := 127 } =
      some (.ok (.packet 0xFC 0xCF 0x00 0x00 4), 0) := by decide
theorem test_pkt_enc_V109 :
    served .reset { Request.zero with op := 4, cable := 15, kind := 0xF } =
      some (.fault (.defect .unrenderableMessage), 5) := by decide
theorem test_pkt_dec_V125 :
    served .reset (pktDec 0xFC 0xCF 0x11 0 3) = some (.ok (.cabled 15 ⟨.programChange, 15, 17, 0⟩), 0) := by decide
theorem test_pkt_dec_V134 :
    served .reset (pktDec 0x23 0xF2 1 2 4) = some (.err (.invalidEventType 242), 2) := by decide
theorem test_note_strict_V3 :
    served .reset { Request.zero with op := 6, byte := 0x80 } = some (.err (.invalidNote 128), 3) := by decide
theorem test_u7_clamp_V9 :
    served .reset { Request.zero with op := 7, byte := 0xC8 } = some (.ok (.value 127), 0) := by decide
theorem test_cable_strict_V13 :
    served .reset { Request.zero with op := 8, byte := 0x10 } = some (.err (.invalidCableNumber 16), 4) := by decide
theorem test_chan_of_status_V16 :
    served .reset { Request.zero with op := 9, byte := 0x7A } = some (.ok (.value 10), 0) := by decide
theorem test_reserved_V161 :
    served .reset { Request.zero with op := 0xA, byte := 9 } = some (.fault (.illegalOp 0xA), 6) := by decide

theorem test_note_off_S2 :
    served .reset (packetRequest 8 128 36 0) = some (.ok (.cabled 0 ⟨.noteOff, 0, 36, 0⟩), 0) := by decide
theorem test_note_on_V130 :
    served .reset (packetRequest 0x09 0x90 0xFF 0xFF) = some (.err (.invalidNote 255), 3) := by decide
theorem test_poly_aftertouch_program4 :
    served .reset (packetRequest 0x0A 0xA0 0x3C 0xC8) = some (.ok (.cabled 0 ⟨.polyAftertouch, 0, 60, 127⟩), 0) := by
  decide
theorem test_control_change_V140 :
    served minimal (packetRequest 11 177 1 32) = some (.err (.invalidEventType 177), 2) := by decide
theorem test_program_change_S3 :
    served .reset (packetRequest 28 192 127 0) = some (.ok (.cabled 1 ⟨.programChange, 0, 127, 0⟩), 0) := by decide
/-- V71's raw bytes as the packet of cable 7. -/
theorem test_channel_aftertouch_V71 :
    served .reset (packetRequest 0x7D 0xDF 0xFF 0xEE) = some (.ok (.cabled 7 ⟨.channelAftertouch, 15, 127, 0⟩), 0) := by
  decide
theorem test_pitch_bend_V138 :
    served .reset (packetRequest 0x3E 0xE5 0x7F 0x00) = some (.ok (.cabled 3 ⟨.pitchBend, 5, 127, 0⟩), 0) := by decide

/-- R29: at latency 1 the request accepted now is in flight with one edge left. -/
theorem test_accept_is_in_flight :
    ∃ t, step { unit [.noteOn] 1 with host := [presentCycle (packetRequest 9 144 36 127)] } = .next t ∧
      t.inflight.map InFlight.left = [1] ∧ t.responses = [] ∧ t.out.rspValid = false :=
  ⟨_, rfl, rfl, rfl, rfl⟩

/-- R31: the pitch-bend view of LSB 64 and MSB 32 is 4160. -/
theorem test_pitch_bend_view : pitchBend14 ⟨.pitchBend, 0, 64, 32⟩ = 4160 := by decide

/-! ### Witnesses of the obligations' hypotheses -/

/-- A pipelined unit of latency 2 with one request about to be answered. -/
def pipelined : State := { unit [.noteOn] 2 with inflight := [⟨1, Request.zero⟩] }

theorem witness_StepExecutesTheRequestOfItsCycle :
    (State.reset.params.latency = 0 ∧ (presentCycle .zero).reqValid = true ∧ (presentCycle .zero).held = true ∧
      ({ State.reset with host := [presentCycle .zero] } : State).host = presentCycle .zero :: []) ∧
    (pipelined.params.latency ≠ 0 ∧ ({ pipelined with host := [idleCycle] } : State).host = idleCycle :: [] ∧
      idleCycle.rst = false ∧ pipelined.inflight = ⟨1, Request.zero⟩ :: [] ∧ (⟨1, Request.zero⟩ : InFlight).left ≤ 1) ∧
    (pipelined.params.latency ≠ 0 ∧ pipelined.host = []) := by decide

theorem witness_PlacedTableWordRunsNext : decodeTableWord 8 0b0111 = some (.u7Clamp 0) := by decide

theorem witness_OperationSelectPicksTheRow :
    (pktDec 0 0x90 0 0 3).len.toNat < 4 ∧ (pktDec 0 0x7F 0 0 4).pkt1.toNat < 0x80 ∧
    0xF0 ≤ (pktDec 0 0xF0 0 0 4).pkt1.toNat ∧
    (4 ≤ (pktDec 0 0x80 0 0 4).len.toNat ∧ 0x80 ≤ (pktDec 0 0x80 0 0 4).pkt1.toNat) ∧
    (pktDec 0 0xEF 0 0 7).pkt1.toNat < 0xF0 ∧
    ∀ op : U4, ({ Request.zero with op := op } : Request).op = op := by decide

theorem witness_EncodeThenDecodeIsIdentity :
    (Instr.pktDec 0x09 0x90 0xFF 0 3).wf = true ∧ (Instr.pktPitchBend 15 0 15 0xFF 0x80).wf = true := by decide

theorem witness_InputsNotReadAreIgnored :
    SameInputsRead { Request.zero with op := 6, byte := 200 } { Request.zero with op := 6, byte := 200, d1 := 5 } := by
  exact ⟨rfl, rfl⟩

theorem witness_TableRowsDoNotOverlap :
    (⟨"PKT.NoteOn", .pkt, 0x00900000, 0x00F00000⟩ : Row) ∈ opcodeTable ∧
    (⟨"PKT.NoteOn", .pkt, 0x00900000, 0x00F00000⟩ : Row).accepts 0x0990247F = true := by decide

theorem witness_ResponseIsAFunctionOfTheRequest :
    State.reset.params = ({ State.reset with faulted := true } : State).params := rfl

theorem witness_EveryResponseDrivesItsErrorCode :
    exec (.u7Clamp 0x80) .reset = .next (State.reset.respond (.ok (.value 0x7F))) := by
  rw [exec_eq]; rfl

theorem witness_OperationsEndOnlyInTheirOutcomes :
    Presents (decode (pktDec 0x09 0x90 0xFF 0 3)) .reset (.err (.invalidNote 0xFF)) := presents_iff.2 (by decide)

theorem witness_NoteStrictAcceptsOrRejects : ({ Request.zero with op := 6 } : Request).op = 0x6 := rfl

theorem witness_SevenBitClampSaturates : ({ Request.zero with op := 7 } : Request).op = 0x7 := rfl

theorem witness_CableStrictAcceptsOrRejects :
    Presents (.cableStrict 0x10) .reset (.err (.invalidCableNumber 0x10)) ∧
    Presents (.cableStrict 0x0F) .reset (.ok (.value 0x0F)) ∧ ({ Request.zero with op := 8 } : Request).op = 0x8 :=
  ⟨presents_iff.2 (by decide), presents_iff.2 (by decide), rfl⟩

theorem witness_ChannelOfStatusMasks : ({ Request.zero with op := 9 } : Request).op = 0x9 := rfl

theorem witness_ClassifyGivesTheTabledCin : ({ Request.zero with op := 1 } : Request).op = 0x1 := rfl

theorem witness_ClassifyIsTotalOnClasses :
    ((0x2 : U4) = 0x2 ∧ 0x8 ≤ (0x8 : U4).toNat ∧ 1 ≤ (1 : U2).toNat) ∧
    ((0xF : U4) = 0x1 ∨ (0xF : U4) = 0x3 → (0 : U2) = 3) ∧ Presents (.classify 0xF 0) .reset (.ok (.cin 0xF)) ∧
    Presents (.classify 0x1 1) .reset (.ok (.cin 0x5)) :=
  ⟨by decide, by decide, presents_iff.2 (by decide), presents_iff.2 (by decide)⟩

theorem witness_RawEncWritesStatusAndData : ({ Request.zero with op := 2 } : Request).op = 0x2 := rfl

theorem witness_UnrenderableKindIsADefect :
    (∀ k : Kind, kindNibble k ≠ 0x7) ∧ ∀ k : Kind, kindNibble k ≠ 0xF :=
  ⟨fun k => by cases k <;> decide, fun k => by cases k <;> decide⟩

theorem witness_RawDecOfNoteKinds :
    .noteOff ∈ State.reset.params.decodeKinds ∧ 3 ≤ (3 : U3).toNat ∧ (127 : Byte).toNat ≤ 127 ∧
    127 < (128 : Byte).toNat ∧ (2 : U3).toNat < 3 := by decide

theorem witness_RawDecOfPairKinds :
    .controlChange ∈ State.reset.params.decodeKinds ∧ 3 ≤ (3 : U3).toNat ∧ (2 : U3).toNat < 3 := by decide

theorem witness_RawDecOfSingleKinds :
    .channelAftertouch ∈ State.reset.params.decodeKinds ∧ 2 ≤ (2 : U3).toNat ∧ (1 : U3).toNat < 2 := by decide

theorem witness_RawDecReportsTheFirstFailure : (rawDec 0 0 0 0).op = 0x3 := rfl

theorem witness_UnrecognisedStatusIsInvalidEventType :
    (∀ k ∈ minimal.params.decodeKinds, kindNibble k ≠ hiNibble 0xB1) ∧
    (∀ k ∈ State.reset.params.decodeKinds, kindNibble k ≠ hiNibble 0x7F) ∧ 1 ≤ (1 : U3).toNat ∧ 2 ≤ (2 : U3).toNat := by
  decide

theorem witness_DecodeKeepsTheChannel :
    Presents (.rawDec 0xE7 0xFF 0x80 3) .reset (.ok (.message ⟨.pitchBend, 7, 127, 127⟩)) ∧
    Presents (.pktDec 0xFC 0xCF 0x11 0 3) .reset (.ok (.cabled 15 ⟨.programChange, 15, 17, 0⟩)) :=
  ⟨presents_iff.2 (by decide), presents_iff.2 (by decide)⟩

theorem witness_RawRoundTrip :
    .pitchBend ∈ State.reset.params.decodeKinds ∧
    State.reset.params = ({ State.reset with faulted := true } : State).params := by decide

theorem witness_PitchBendIsLsbFirst : .pitchBend ∈ State.reset.params.decodeKinds := by decide

theorem witness_PktEncFramesTheMessage : ({ Request.zero with op := 4 } : Request).op = 0x4 := rfl

theorem witness_PktDecReportsTheFirstFailure : (pktDec 0x09 0x90 0x24 0x7F 4).op = 0x5 := rfl

theorem witness_PktDecUnframesTheMessage :
    .noteOn ∈ State.reset.params.decodeKinds ∧ 2 + nData .noteOn ≤ (4 : U3).toNat ∧
    2 + nData .programChange ≤ (3 : U3).toNat ∧ (hasNote .noteOn = true → (127 : Byte).toNat ≤ 127) := by decide

theorem witness_PktDecIgnoresTheCin :
    hiNibble 0x09 = hiNibble 0x08 ∧ (pktDec 0x09 0x90 0x24 0x7F 4).op = 0x5 ∧
    Presents (.pktDec 0x09 0x90 0x24 0x7F 4) .reset (.ok (.cabled 0 ⟨.noteOn, 0, 36, 127⟩)) ∧
    Presents (decode (pktDec 0x09 0x90 0x24 0x7F 4)) .reset (.ok (.cabled 0 ⟨.noteOn, 0, 36, 127⟩)) :=
  ⟨by decide, rfl, presents_iff.2 (by decide), presents_iff.2 (by decide)⟩

theorem witness_PktDecIsTotal :
    (1 ≤ (2 : U3).toNat → (0x09 : Byte) = 0x09) ∧ (2 ≤ (2 : U3).toNat → (0xF8 : Byte) = 0xF8) ∧
    (3 ≤ (2 : U3).toNat → (1 : Byte) = 2) ∧ (4 ≤ (2 : U3).toNat → (1 : Byte) = 2) ∧
    Presents (.pktDec 0x09 0xF8 1 1 2) .reset (.err (.invalidEventType 0xF8)) :=
  ⟨by decide, by decide, by decide, by decide, presents_iff.2 (by decide)⟩

theorem witness_PktDecPropagatesRawErrors :
    2 ≤ (3 : U3).toNat ∧ (2 : U3).toNat = min (3 : U3).toNat 4 - 1 ∧
    Presents (.rawDec 0x90 0xFF 0 2) .reset (.err (.invalidNote 0xFF)) :=
  ⟨by decide, by decide, presents_iff.2 (by decide)⟩

theorem witness_ShortPacketsAreMissingData : (1 : U3).toNat < 2 := by decide

theorem witness_PacketRoundTrip :
    .programChange ∈ State.reset.params.decodeKinds ∧
    State.reset.params = ({ State.reset with faulted := true } : State).params := by decide

theorem witness_EncodedPacketReproducesItsCin :
    Presents (.pktEnc 1 0xC 0 127 9) .reset (.ok (.packet 0x1C 0xC0 0x7F 0x00 4)) ∧
    Presents (.pktDec 0x1C 0xC0 0x7F 0x00 4) .reset (.ok (.cabled 1 ⟨.programChange, 0, 127, 0⟩)) ∧
    .noteOn ∈ State.reset.params.decodeKinds :=
  ⟨presents_iff.2 (by decide), presents_iff.2 (by decide), by decide⟩

theorem witness_CanonicalPacketsAreTheFixedPoints :
    Canonical State.reset.params.decodeKinds 0x09 0x90 0x24 0x7F ∧
    ¬ Canonical State.reset.params.decodeKinds 0x08 0x90 0x24 0x7F ∧
    Presents (.pktDec 0x08 0x90 0x24 0x7F 4) .reset (.ok (.cabled 0 ⟨.noteOn, 0, 36, 127⟩)) :=
  ⟨⟨by decide, .noteOn, by decide, by decide, by decide, by decide⟩, fun h => absurd h.1 (by decide),
    presents_iff.2 (by decide)⟩

theorem witness_PacketRowsOfNoteKinds :
    .noteOff ∈ State.reset.params.decodeKinds ∧ .noteOn ∈ State.reset.params.decodeKinds ∧
    .polyAftertouch ∈ State.reset.params.decodeKinds := by decide

theorem witness_PacketRowsOfClampedKinds :
    .controlChange ∈ State.reset.params.decodeKinds ∧ .programChange ∈ State.reset.params.decodeKinds ∧
    .channelAftertouch ∈ State.reset.params.decodeKinds ∧ .pitchBend ∈ State.reset.params.decodeKinds := by decide

theorem witness_PacketRowsAgreeWithPktDec :
    4 ≤ (4 : U3).toNat ∧ packetRow 0x1C 0xC0 0x7F 0x00 = some (.pktProgramChange 1 12 0 127 0) := by decide

theorem witness_ReservedOpsAreIllegal :
    (Request.zero.op = 0 ∨ 0xA ≤ Request.zero.op.toNat) ∧
    0xA ≤ ({ Request.zero with op := 0xA } : Request).op.toNat := by decide

theorem witness_BytesAreReadOnlyBelowTheCount :
    0 < [(0x90 : Byte)].length ∧ 0 < 1 ∧ 1 ≤ 1 ∧ 3 ≤ (3 : U3).toNat ∧ 4 ≤ (4 : U3).toNat := by decide

theorem witness_CombinationalCycle :
    State.reset.params.latency = 0 ∧
    ({ State.reset with host := [presentCycle .zero] } : State).host = presentCycle .zero :: [] ∧
    (presentCycle .zero).reqValid = true ∧ (presentCycle .zero).held = true ∧ idleCycle.reqValid = false ∧
    ({ idleCycle with held := false } : Cycle).reqValid = false := by decide

theorem witness_ResetEdgeDropsThePipeline :
    State.reset.params.latency = 0 ∧ pipelined.params.latency ≠ 0 ∧
    ({ pipelined with host := [{ idleCycle with rst := true }] } : State).host = { idleCycle with rst := true } :: [] := by
  decide

theorem witness_UnheldInputsRecordNothing :
    State.reset.params.latency = 0 ∧ ({ presentCycle .zero with held := false } : Cycle).reqValid = true ∧
    ({ State.reset with host := [{ presentCycle .zero with held := false }] } : State).host =
      { presentCycle .zero with held := false } :: [] := by decide

theorem witness_RspValidIsZeroUnlessAResponseFalls :
    (unit [.noteOn] 2).params.latency ≠ 0 ∧ (unit [.noteOn] 2).now.rst = false ∧
    (∀ e q, (unit [.noteOn] 2).inflight = e :: q → 1 < e.left) ∧
    (∀ e q, ({ pipelined with inflight := [⟨2, Request.zero⟩] } : State).inflight = e :: q → 1 < e.left) ∧
    ∃ t, step pipelined = .next t :=
  ⟨by decide, rfl, fun _ _ h => (by cases h), fun _ _ h => (by cases h; decide), _, rfl⟩

theorem witness_AnswerComesAfterExactlyTheLatency :
    pipelined.params.latency ≠ 0 ∧ PipelineOrdered pipelined.params.latency pipelined.inflight ∧
    (presentCycle .zero).rst = false ∧ (presentCycle .zero).reqValid = true ∧
    ∀ d ∈ [idleCycle, idleCycle].take pipelined.params.latency, d.rst = false :=
  ⟨by decide, ⟨by decide, by decide⟩, rfl, rfl, by decide⟩

theorem witness_ResponsesLeaveInOrderOfAcceptance :
    pipelined.params.latency ≠ 0 ∧ pipelined.now.rst = false ∧ ∃ t, step pipelined = .next t :=
  ⟨by decide, rfl, _, rfl⟩

theorem witness_CombinationalRequestsDoNotInterfere :
    State.reset.params.latency = 0 ∧
    ({ State.reset with host := [presentCycle .zero, idleCycle] } : State).host =
      [Request.zero].map presentCycle ++ [idleCycle] := by decide

theorem witness_StepKeepsThePipelineOrdered :
    PipelineOrdered pipelined.params.latency pipelined.inflight ∧ ∃ t, step pipelined = .next t :=
  ⟨⟨by decide, by decide⟩, _, rfl⟩

theorem witness_PipelineIsAtMostLatencyDeep : PipelineOrdered 2 [⟨1, Request.zero⟩, ⟨2, Request.zero⟩] :=
  ⟨by decide, by decide⟩

theorem witness_StepKeepsFaultedRecorded :
    FaultedIsRecorded State.reset ∧ (∃ t, step State.reset = .next t) ∧
    ({ State.reset with faulted := true } : State).faulted = true :=
  ⟨by simp [FaultedIsRecorded], ⟨_, rfl⟩, rfl⟩

theorem witness_StepOnlyAddsToTheRecord : ∃ t, step pipelined = .next t := ⟨_, rfl⟩

end Sys2Proof.Tests
end

/-! The statements of spec/00_scope.md: the names of the kinds (R11) and the unit as a function of the request (R5). -/

namespace Sys2Proof.Proofs.Scope

open Sys2Proof Sys2Proof.Machine Sys2Proof.Safety

/-! ### Kinds and nibbles -/

/-- Reading a nibble as a kind inverts writing a kind as its nibble. -/
theorem kindOfNibble_eq_some_iff {n : U4} {k : Kind} : kindOfNibble n = some k ↔ kindNibble k = n := by
  constructor
  · exact kindNibble_of_kindOfNibble
  · rintro rfl
    exact kindOfNibble_kindNibble k

theorem kindOfNibble_eq_none_iff (n : U4) : kindOfNibble n = none ↔ n.toNat < 8 ∨ n = 0xF := by
  revert n; decide

theorem nData_eq_ite (k : Kind) : nData k = if k = .programChange ∨ k = .channelAftertouch then 1 else 2 := by
  cases k <;> rfl

/-- Settles O5: each nibble by its definition, then the inverse, the nibbles of no kind, and the counts. -/
theorem statusNibblesNameTheKinds : Obligations.StatusNibblesNameTheKinds :=
  ⟨rfl, rfl, rfl, rfl, rfl, rfl, rfl, fun _ _ => kindOfNibble_eq_some_iff, kindOfNibble_eq_none_iff, nData_eq_ite⟩

/-! ### The response -/

/-- Every instruction completes from every state, with the response its reply names. -/
theorem presents_reply (i : Instr) (s : State) : Presents i s (reply s.params i) :=
  presents_iff.2 rfl

/-- Settles O11: the reply depends on the state through the build parameters alone, which the two states share. -/
theorem responseIsAFunctionOfTheRequest : Obligations.ResponseIsAFunctionOfTheRequest := by
  intro i s s' hp
  have hs' : Presents i s' (reply s.params i) := by
    rw [hp]
    exact presents_reply i s'
  exact ⟨reply s.params i, presents_reply i s, hs'⟩

end Sys2Proof.Proofs.Scope

/-! The statements of spec/10_state.md: what reset leaves (R34), which request a clock cycle answers (R29), what every
step keeps (R32), and the order and the delay of a pipelined unit's responses (R29). -/

namespace Sys2Proof.Proofs.Clocking

open Sys2Proof Sys2Proof.Machine Sys2Proof.Safety

/-! ### The host's cycles -/

theorem now_of_host_cons {s : State} {c : Cycle} {rest : List Cycle} (h : s.host = c :: rest) : s.now = c := by
  simp [State.now, h]

theorem now_of_host_nil {s : State} (h : s.host = []) : s.now = idleCycle := by
  simp [State.now, h]

theorem later_of_host_cons {s : State} {c : Cycle} {rest : List Cycle} (h : s.host = c :: rest) :
    s.later = { s with host := rest } := by
  simp [State.later, h]

theorem later_of_host_nil {s : State} (h : s.host = []) : s.later = s := by
  cases s
  cases h
  rfl

/-- A script without reset in its first cycles, which may end before them, drives none in the present one. -/
theorem now_rst_of_take {s : State} {n : Nat} (h : ∀ d ∈ s.host.take (n + 1), d.rst = false) : s.now.rst = false := by
  cases hh : s.host with
  | nil => rw [now_of_host_nil hh]; rfl
  | cons c rest =>
    rw [now_of_host_cons hh]
    exact h c (by simp [hh])

/-! ### The pipeline's queue -/

theorem dueNow_cons_of_le {e : InFlight} {q : List InFlight} (h : e.left ≤ 1) : dueNow (e :: q) = some e.req :=
  if_pos h

theorem afterEdge_cons_of_le {e : InFlight} {q : List InFlight} (h : e.left ≤ 1) : afterEdge (e :: q) = ageAll q :=
  if_pos h

theorem dueNow_eq_none {q : List InFlight} (h : ∀ e rest, q = e :: rest → 1 < e.left) : dueNow q = none := by
  cases q with
  | nil => rfl
  | cons e rest => exact if_neg (Nat.not_le.2 (h e rest rfl))

theorem afterEdge_eq_ageAll {q : List InFlight} (h : ∀ e rest, q = e :: rest → 1 < e.left) :
    afterEdge q = ageAll q := by
  cases q with
  | nil => rfl
  | cons e rest => exact if_neg (Nat.not_le.2 (h e rest rfl))

theorem accept_eq_append (latency : Nat) (c : Cycle) (q : List InFlight) :
    accept latency c q = q ++ if c.reqValid then [⟨latency, c.req⟩] else [] := by
  cases h : c.reqValid <;> simp [accept, h]

/-- An edge loses no request and changes no order: the one it answers is the oldest. -/
theorem dueNow_append_afterEdge (q : List InFlight) :
    (dueNow q).toList ++ (afterEdge q).map InFlight.req = q.map InFlight.req := by
  cases q with
  | nil => rfl
  | cons e rest => by_cases h : e.left ≤ 1 <;> simp [dueNow, afterEdge, ageAll, h]

/-- A request with more than one edge left stays in flight, one edge nearer to its response. -/
theorem mem_afterEdge {q : List InFlight} {n : Nat} {r : Request} (h : ⟨n + 2, r⟩ ∈ q) : ⟨n + 1, r⟩ ∈ afterEdge q := by
  have aged : ∀ l : List InFlight, ⟨n + 2, r⟩ ∈ l → ⟨n + 1, r⟩ ∈ ageAll l := fun l hl =>
    List.mem_map.2 ⟨_, hl, rfl⟩
  cases q with
  | nil => cases h
  | cons e rest =>
    by_cases he : e.left ≤ 1
    · rw [afterEdge_cons_of_le he]
      rcases List.mem_cons.1 h with rfl | h
      · simp at he
      · exact aged rest h
    · rw [afterEdge_eq_ageAll (by rintro _ _ ⟨⟩; omega)]
      exact aged _ h

/-- In an ordered pipeline the request with its last edge is the one answered: no other one is older. -/
theorem dueNow_of_mem {latency : Nat} {q : List InFlight} {r : Request} (ho : PipelineOrdered latency q)
    (h : ⟨1, r⟩ ∈ q) : dueNow q = some r := by
  obtain ⟨hs, hb⟩ := ho
  cases q with
  | nil => cases h
  | cons e rest =>
    rcases List.mem_cons.1 h with rfl | h
    · rfl
    · have hlt : e.left < 1 := List.rel_of_pairwise_cons hs h
      have hge := (hb e (by simp)).1
      omega

/-- Acceptance keeps the order: after an edge every request in flight has fewer than `latency` edges left. -/
theorem pipelineOrdered_accept {latency : Nat} {c : Cycle} {q : List InFlight} (hl : latency ≠ 0)
    (h : PipelineOrdered (latency - 1) q) : PipelineOrdered latency (accept latency c q) := by
  obtain ⟨hs, hb⟩ := h
  have hq : ∀ e ∈ q, 1 ≤ e.left ∧ e.left < latency := fun e he => by have := hb e he; omega
  rw [accept_eq_append]
  cases c.reqValid with
  | false =>
    simp only [Bool.false_eq_true, if_false, List.append_nil]
    exact ⟨hs, fun e he => ⟨(hq e he).1, (hq e he).2.le⟩⟩
  | true =>
    simp only [if_true]
    refine ⟨List.pairwise_append.2 ⟨hs, List.pairwise_singleton .., ?_⟩, ?_⟩
    · intro a ha b hb
      rw [List.mem_singleton.1 hb]
      exact (hq a ha).2
    · intro e he
      rcases List.mem_append.1 he with he | he
      · exact ⟨(hq e he).1, (hq e he).2.le⟩
      · rw [List.mem_singleton.1 he]
        exact ⟨Nat.one_le_iff_ne_zero.2 hl, le_rfl⟩

/-- Settles O54: the edges left are distinct numbers from 1 to the latency. -/
theorem pipelineIsAtMostLatencyDeep : Obligations.PipelineIsAtMostLatencyDeep := by
  rintro latency q ⟨hs, hb⟩
  have hnodup : (q.map InFlight.left).Nodup := List.pairwise_map.2 (hs.imp Nat.ne_of_lt)
  have hsub : (q.map InFlight.left).toFinset ⊆ Finset.Icc 1 latency := by
    intro n hn
    obtain ⟨e, he, rfl⟩ := List.mem_map.1 (List.mem_toFinset.1 hn)
    exact Finset.mem_Icc.2 (hb e he)
  calc q.length = (q.map InFlight.left).toFinset.card := by simp [List.toFinset_card_of_nodup hnodup]
    _ ≤ (Finset.Icc 1 latency).card := Finset.card_le_card hsub
    _ = latency := by simp

/-! ### Reset -/

/-- Settles O1: each field of the reset state is what R34 says, and the seven kinds are all there are. -/
theorem resetLeavesNothingRecorded : Obligations.ResetLeavesNothingRecorded :=
  ⟨rfl, rfl, rfl, rfl, rfl, fun k => by cases k <;> decide⟩

/-- Settles O56: the empty pipeline is ordered and the empty record holds no fault. -/
theorem resetMeetsTheInvariant : Obligations.ResetMeetsTheInvariant :=
  ⟨⟨.nil, by simp⟩, by simp [FaultedIsRecorded]⟩

/-! ### What a step can do -/

/-- The three ends of a step: it presents a response, is quiet, or is a combinational cycle with changing inputs. -/
theorem step_next_cases {s t : State} (h : step s = .next t) :
    (∃ r, t = s.cycle.2.respond r) ∨ t = s.cycle.2.quiet ∨ (s.params.latency = 0 ∧ t = s.cycle.2.unsettled) := by
  rcases step_cases s with ⟨r, -, hs⟩ | ⟨-, hs⟩ | ⟨hu, hs⟩
  · rw [hs, exec_eq] at h
    cases h
    exact .inl ⟨_, rfl⟩
  · rw [hs] at h
    cases h
    exact .inr (.inl rfl)
  · rw [hs] at h
    cases h
    refine .inr (.inr ⟨?_, rfl⟩)
    rcases cycle_cases s with ⟨hl, -⟩ | ⟨-, -, hc⟩ | ⟨r, -, -, -, hc⟩ | ⟨-, -, -, hc⟩
    · exact hl
    all_goals
      rw [hc] at hu
      cases hu

/-- A step keeps the parameters, leaves the pipeline as its cycle does, and moves the host's script on by one. -/
theorem step_frame {s t : State} (h : step s = .next t) :
    t.params = s.params ∧ t.inflight = s.cycle.2.inflight ∧ t.host = s.host.drop 1 := by
  obtain ⟨hp, -, -, -, -, hh⟩ := s.cycle_frame
  rcases step_next_cases h with ⟨r, rfl⟩ | rfl | ⟨-, rfl⟩ <;> exact ⟨hp, rfl, hh⟩

/-- What a step does to the record and to `faulted`. -/
theorem step_record {s t : State} (h : step s = .next t) :
    (∃ r, t.responses = s.responses ++ [r] ∧ (t.faulted = true ↔ s.faulted = true ∨ ∃ f, r = .fault f)) ∨
    (t.responses = s.responses ∧ t.faulted = s.faulted) := by
  obtain ⟨-, hr, hf, -⟩ := s.cycle_frame
  rcases step_next_cases h with ⟨r, rfl⟩ | rfl | ⟨-, rfl⟩
  · exact .inl ⟨r, by simp [hr], hf ▸ respond_faulted_iff _ r⟩
  · exact .inr ⟨hr, hf⟩
  · exact .inr ⟨hr, hf⟩

/-- Settles O57: a step records one response or none, and the cycle keeps the parameters. -/
theorem stepOnlyAddsToTheRecord : Obligations.StepOnlyAddsToTheRecord := by
  intro s t h
  obtain ⟨hp, -, -⟩ := step_frame h
  refine ⟨hp, ?_⟩
  rcases step_record h with ⟨r, hr, -⟩ | ⟨hr, -⟩
  · exact ⟨[r], hr, le_rfl⟩
  · exact ⟨[], by simp [hr], by simp⟩

/-- Settles O55: a step that records a response marks the run exactly if it is a fault; any other keeps both. -/
theorem stepKeepsFaultedRecorded : Obligations.StepKeepsFaultedRecorded := by
  intro s t h
  rcases step_record h with ⟨r, hr, hf⟩ | ⟨hr, hf⟩
  · refine ⟨fun hs => ?_, fun hs => hf.2 (.inl hs)⟩
    unfold FaultedIsRecorded at hs ⊢
    rw [hf, hr, hs]
    simp only [List.mem_append, List.mem_singleton, exists_or, eq_comm]
  · unfold FaultedIsRecorded
    rw [hr, hf]
    exact ⟨id, id⟩

/-! ### The order of the pipeline -/

theorem step_inflight {s t : State} (hl : s.params.latency ≠ 0) (hr : s.now.rst = false) (h : step s = .next t) :
    t.inflight = accept s.params.latency s.now (afterEdge s.inflight) := by
  obtain ⟨-, hq, -⟩ := step_frame h
  rw [hq]
  simp [State.cycle, hl, hr]

/-- Settles O53: a combinational cycle leaves the queue, a reset edge empties it, and any other edge ages it and
accepts at its end. -/
theorem stepKeepsThePipelineOrdered : Obligations.StepKeepsThePipelineOrdered := by
  intro s t ho h
  obtain ⟨hp, hq, -⟩ := step_frame h
  rw [hp, hq]
  rcases cycle_cases s with ⟨-, hc⟩ | ⟨-, -, hc⟩ | ⟨r, hl, -, -, hc⟩ | ⟨hl, -, -, hc⟩ <;> rw [hc]
  · exact ho
  · exact ⟨.nil, by simp⟩
  · exact pipelineOrdered_accept hl (pipelineOrdered_afterEdge ho)
  · exact pipelineOrdered_accept hl (pipelineOrdered_afterEdge ho)

/-- What an edge without reset records: the response to the request that is due, if any. -/
theorem step_responses {s t : State} (hl : s.params.latency ≠ 0) (hr : s.now.rst = false) (h : step s = .next t) :
    t.responses = s.responses ++ (dueNow s.inflight).toList.map fun r => reply s.params (decode r) := by
  rw [step_pipelined hl hr] at h
  cases hd : dueNow s.inflight <;> rw [hd] at h <;> cases h <;> simp

/-- Settles O51: what leaves the queue at an edge is recorded, and what is accepted goes to its end. -/
theorem responsesLeaveInOrderOfAcceptance : Obligations.ResponsesLeaveInOrderOfAcceptance := by
  intro s t hl hr h
  obtain ⟨hp, -, -⟩ := step_frame h
  have hq := congrArg (List.map fun r => some (reply s.params (decode r))) (dueNow_append_afterEdge s.inflight)
  rw [step_responses hl hr h, step_inflight hl hr h, hp, accept_eq_append]
  simp only [answer?_eq, List.map_append, List.map_map, Function.comp_def] at hq ⊢
  rw [List.append_assoc, ← List.append_assoc (List.map _ (dueNow _).toList), hq]
  cases s.now.reqValid <;> simp

/-- Settles O58: no request with its last edge means none due; and a pipelined unit drives `rsp_valid` 1 exactly where
it presents a response. -/
theorem rspValidIsZeroUnlessAResponseFalls : Obligations.RspValidIsZeroUnlessAResponseFalls := by
  refine ⟨fun s hl hr hq => ?_, fun s t hl h => ?_⟩
  · have hs := step_pipelined hl hr
    rw [dueNow_eq_none hq] at hs
    refine ⟨_, hs, rfl, rfl, rfl, ?_⟩
    rw [step_inflight hl hr hs, afterEdge_eq_ageAll hq, accept_eq_append]
    rfl
  · obtain ⟨-, hr, -⟩ := s.cycle_frame
    rcases step_next_cases h with ⟨r, rfl⟩ | rfl | ⟨hz, -⟩
    · exact iff_of_true rfl ⟨r, by simp [hr]⟩
    · exact iff_of_false (by simp) (by simp [hr])
    · exact absurd hz hl

/-! ### The request a cycle executes -/

/-- Settles O2: the request the host presents to a combinational unit, or the oldest in flight when its last edge has
come. -/
theorem stepExecutesTheRequestOfItsCycle : Obligations.StepExecutesTheRequestOfItsCycle := by
  refine ⟨fun s c rest hl hh hv hc => ?_, fun s c rest e q hl hh hr hq he => ?_, fun s e q hl hh hq he => ?_⟩
  · rw [step_combinational hl, now_of_host_cons hh, later_of_host_cons hh, exec_eq]
    simp [serviceNow, hv, hc]
  · rw [step_pipelined hl (by rw [now_of_host_cons hh, hr]), now_of_host_cons hh, later_of_host_cons hh, hq,
      dueNow_cons_of_le he, afterEdge_cons_of_le he, accept_eq_append, exec_eq]
    rfl
  · rw [step_pipelined hl (by rw [now_of_host_nil hh]; rfl), now_of_host_nil hh, later_of_host_nil hh, hq,
      dueNow_cons_of_le he, afterEdge_cons_of_le he, exec_eq]
    rfl

theorem step_of_answer {s : State} {r : Request} (h : s.cycle.1 = .answer r) : step s = exec (decode r) s.cycle.2 := by
  rcases step_cases s with ⟨r', hc, hs⟩ | ⟨hc, -⟩ | ⟨hc, -⟩ <;> rw [h] at hc <;> cases hc
  exact hs

/-- The cycle after a request is handed to the unit answers it. -/
theorem cycle_aboutToServe (s : State) (r : Request) : (s.aboutToServe r).cycle.1 = .answer r := by
  by_cases hl : s.params.latency = 0
  · simp [State.aboutToServe, State.cycle, hl, State.now, serviceNow, presentCycle]
  · simp [State.aboutToServe, State.cycle, hl, State.now, idleCycle, dueNow]

/-- Handing a request to the unit puts one cycle before the host's script, and changes nothing else but the queue. -/
theorem aboutToServe_frame (s : State) (r : Request) :
    (s.aboutToServe r).host.drop 1 = s.host ∧ (s.aboutToServe r).responses = s.responses ∧
      (s.aboutToServe r).faulted = s.faulted ∧ (s.aboutToServe r).params = s.params := by
  unfold State.aboutToServe
  split <;> exact ⟨rfl, rfl, rfl, rfl⟩

/-- Settles O3: the request of the word is handed to the unit, and the cycle keeps the rest of the state. -/
theorem placedTableWordRunsNext : Obligations.PlacedTableWordRunsNext := by
  intro s nbits w i hi
  obtain rfl : decode (tableRequest nbits w) = i := Option.some.inj hi
  obtain ⟨hh, hr, hf, hp⟩ := aboutToServe_frame s (tableRequest nbits w)
  obtain ⟨cp, cr, cf, -, -, ch⟩ := (s.aboutToServe (tableRequest nbits w)).cycle_frame
  exact ⟨_, step_of_answer (cycle_aboutToServe s _), ch.trans hh, cr.trans hr, cf.trans hf, cp.trans hp⟩

/-- Settles O47: a held request is answered with the response it has alone; without a request the cycle is quiet. -/
theorem combinationalCycle : Obligations.CombinationalCycle := by
  intro s c rest hl hh
  have hs := step_combinational hl
  rw [now_of_host_cons hh] at hs
  refine ⟨fun hv hc => ?_, fun hv => ?_⟩
  · simp only [serviceNow, hv, hc, if_true] at hs
    exact ⟨_, _, hs, rfl, answer?_eq _ _, shows_drive _ _⟩
  · simp only [serviceNow, hv, Bool.false_eq_true, if_false] at hs
    exact ⟨_, hs, rfl, rfl, rfl⟩

/-! ### The delay of a response -/

theorem run_succ_of_step {s t : State} (n : Nat) (h : step s = .next t) : core.run (n + 1) s = core.run n t := by
  have hc : core.step s = .next t := h
  simp only [Host.Core.run, hc]

/-- Every state has a next one: a cycle answers a request, is quiet or is unsettled. -/
theorem exists_step (s : State) : ∃ t, step s = .next t := by
  rcases step_cases s with ⟨r, -, h⟩ | ⟨-, h⟩ | ⟨-, h⟩
  · exact ⟨_, h.trans (exec_eq _ _)⟩
  · exact ⟨_, h⟩
  · exact ⟨_, h⟩

/-- With the request that is due a pipelined unit presents the response that request has alone. -/
theorem step_of_dueNow {s : State} {r : Request} (hl : s.params.latency ≠ 0) (hr : s.now.rst = false)
    (hd : dueNow s.inflight = some r) :
    ∃ u, step s = .next u ∧ u.responses = s.responses ++ [reply s.params (decode r)] ∧
      Shows u.out (reply s.params (decode r)) := by
  have hs := step_pipelined hl hr
  rw [hd] at hs
  exact ⟨_, hs, rfl, shows_drive _ _⟩

/-- A request in flight with `n + 1` edges left is answered after `n` steps by the next one, if the host drives no reset
meanwhile: each step takes one of its edges, and with its last edge it is the one due. -/
theorem answered_after_edges_left {r : Request} (n : Nat) : ∀ {s : State}, s.params.latency ≠ 0 →
    PipelineOrdered s.params.latency s.inflight → ⟨n + 1, r⟩ ∈ s.inflight →
    (∀ d ∈ s.host.take (n + 1), d.rst = false) →
    ∃ t u, core.run n s = .next t ∧ step t = .next u ∧ u.responses = t.responses ++ [reply s.params (decode r)] ∧
      Shows u.out (reply s.params (decode r)) := by
  induction n with
  | zero =>
    intro s hl ho hm hh
    obtain ⟨u, hu⟩ := step_of_dueNow hl (now_rst_of_take hh) (dueNow_of_mem ho hm)
    exact ⟨s, u, rfl, hu⟩
  | succ n ih =>
    intro s hl ho hm hh
    have hr := now_rst_of_take hh
    obtain ⟨t, ht⟩ := exists_step s
    obtain ⟨hp, -, hth⟩ := step_frame ht
    have hmt : ⟨n + 1, r⟩ ∈ t.inflight := by
      rw [step_inflight hl hr ht, accept_eq_append]
      exact List.mem_append_left _ (mem_afterEdge hm)
    have hht : ∀ d ∈ t.host.take (n + 1), d.rst = false := by
      rw [hth, List.take_drop, Nat.add_comm 1]
      exact fun d hd => hh d (List.mem_of_mem_drop hd)
    rw [run_succ_of_step n ht, ← hp]
    exact ih (hp ▸ hl) (stepKeepsThePipelineOrdered s t ho ht) hmt hht

/-- Settles O50: the first step captures the request with `P_LATENCY` edges left, and the edges left count the rest. -/
theorem answerComesAfterExactlyTheLatency : Obligations.AnswerComesAfterExactlyTheLatency := by
  intro s c rest hl ho hh hr hv hrest
  have hn := now_of_host_cons hh
  obtain ⟨n, hL⟩ := Nat.exists_eq_succ_of_ne_zero hl
  obtain ⟨s', hs'⟩ := exists_step s
  obtain ⟨hp, -, hh'⟩ := step_frame hs'
  have hm : ⟨n + 1, c.req⟩ ∈ s'.inflight := by
    rw [step_inflight hl (by rw [hn, hr]) hs', accept_eq_append, hn, hL]
    simp [hv]
  have hrest' : ∀ d ∈ s'.host.take (n + 1), d.rst = false := by
    rw [hh', hh, ← Nat.succ_eq_add_one, ← hL]
    exact hrest
  obtain ⟨t, u, ht, hu, hresp, hshow⟩ :=
    answered_after_edges_left n (hp ▸ hl) (stepKeepsThePipelineOrdered s s' ho hs') hm hrest'
  rw [hp] at hresp hshow
  exact ⟨t, u, reply s.params (decode c.req), by rw [hL, run_succ_of_step n hs', ht], hu, hresp, answer?_eq _ _, hshow⟩

end Sys2Proof.Proofs.Clocking

/-! The statements of spec/20_memory.md: the byte lanes are read below the valid count alone (R40), and a pitch bend
crosses them least significant half first (R44). -/

namespace Sys2Proof.Proofs.ByteLanes

open Sys2Proof Sys2Proof.Machine Sys2Proof.Safety

/-! ### The valid count -/

/-- A `len_in` of at least the lane count counts as the lane count. -/
theorem validCount_of_le {len : U3} {lanes : Nat} (h : lanes ≤ len.toNat) : validCount len lanes = lanes :=
  Nat.min_eq_right h

/-- RAW_DEC reads `len_in` through the valid count alone. -/
theorem replyRawDec_congr_len {len len' : U3} (h : validCount len 3 = validCount len' 3) (kinds : List Kind)
    (b0 b1 b2 : Byte) : replyRawDec kinds b0 b1 b2 len = replyRawDec kinds b0 b1 b2 len' := by
  simp only [replyRawDec, h]

/-- PKT_DEC reads `len_in` through the valid count alone. -/
theorem replyPktDec_congr_len {len len' : U3} (h : validCount len 4 = validCount len' 4) (kinds : List Kind)
    (b0 b1 b2 b3 : Byte) : replyPktDec kinds b0 b1 b2 b3 len = replyPktDec kinds b0 b1 b2 b3 len' := by
  simp only [replyPktDec, h]

/-- Settles O45: `Get` looks at the count first, and both decoders read a count capped at their lanes. -/
theorem bytesAreReadOnlyBelowTheCount : Obligations.BytesAreReadOnlyBelowTheCount := by
  refine ⟨fun _ _ _ hb hn => getByte_of_lt hn hb, fun _ _ _ h => getByte_of_le h, fun s b0 b1 b2 len r h => ?_,
    fun s b0 b1 b2 b3 len r h => ?_⟩
  · have hc : validCount len 3 = validCount 3 3 := validCount_of_le h
    rw [presents_iff, presents_iff, reply, reply, replyRawDec_congr_len hc]
  · have hc : validCount len 4 = validCount 4 4 := validCount_of_le h
    rw [presents_iff, presents_iff, reply, reply, replyPktDec_congr_len hc]

/-! ### A data value as a byte -/

theorem zextSeven_eq_append (v : U7) : zextSeven v = 0#1 ++ v := by
  revert v; decide

/-- Saturation leaves a data value as it is. -/
theorem saturated_zextSeven (v : U7) : saturated (zextSeven v) = v := by
  rw [← clamp7_eq_saturated, clamp7_zextSeven]

/-- The 14-bit value as a number (spec/10_state.md R31). -/
theorem pitchBend14_toNat (m : Message) : (pitchBend14 m).toNat = 128 * m.d2.toNat + m.d1.toNat := by
  have h := Nat.shiftLeft_add_eq_or_of_lt m.d1.isLt m.d2.toNat
  rw [pitchBend14, BitVec.toNat_append, ← h, Nat.shiftLeft_eq, Nat.mul_comm]

/-! ### Both codecs on a message of two data values -/

/-- A kind with two data values is rendered as the status byte and both values, in the order `d1`, `d2`. -/
theorem replyRawEnc_of_two_values {k : Kind} (hk : nData k = 2) (chan : U4) (d1 d2 : U7) :
    replyRawEnc (kindNibble k) chan d1 d2 = .ok (.raw (statusByte k chan) (zextSeven d1) (zextSeven d2) 3) := by
  simp [replyRawEnc, renderRaw, hk]

/-- The packet of a kind with two data values: the header before its raw message. -/
theorem replyPktEnc_of_two_values {k : Kind} (hk : nData k = 2) (cable chan : U4) (d1 d2 : U7) :
    replyPktEnc cable (kindNibble k) chan d1 d2 =
      .ok (.packet (joinNibbles cable (cinOf k)) (statusByte k chan) (zextSeven d1) (zextSeven d2) 4) := by
  simp [replyPktEnc, renderRaw, hk]

/-- The status byte of a kind the unit decodes leads to that kind's data bytes. -/
theorem rawDecode_statusByte {kinds : List Kind} {k : Kind} {n : Nat} (hk : k ∈ kinds) (hn : 0 < n) (chan : U4)
    (rest : List Byte) :
    rawDecode kinds (statusByte k chan :: rest) n = decodeBody k chan (statusByte k chan :: rest) n := by
  have hr : recognised kinds (kindNibble k) = some k := recognised_eq_some.2 ⟨hk, rfl⟩
  rw [rawDecode, getByte_of_lt hn (by simp)]
  simp [bind, Except.bind, statusByte, hr]

/-- RAW_DEC of three valid lanes decodes all of them. -/
theorem replyRawDec_complete (kinds : List Kind) (b0 b1 b2 : Byte) :
    replyRawDec kinds b0 b1 b2 3 = (rawDecode kinds [b0, b1, b2] 3).map .message := by
  rw [replyRawDec, validCount_of_le (by decide)]
  cases rawDecode kinds [b0, b1, b2] 3 <;> rfl

/-- PKT_DEC of a whole packet decodes the raw message behind the header. -/
theorem replyPktDec_complete (kinds : List Kind) (b0 b1 b2 b3 : Byte) :
    replyPktDec kinds b0 b1 b2 b3 4 = (rawDecode kinds [b1, b2, b3] 3).map (.cabled (hiNibble b0)) := by
  rw [replyPktDec, validCount_of_le (by decide)]
  cases rawDecode kinds [b1, b2, b3] 3 <;> rfl

/-! ### Pitch bend -/

/-- The raw message of a pitch bend gives its two halves back in their places. -/
theorem rawDecode_pitchBend {kinds : List Kind} (hk : .pitchBend ∈ kinds) (chan : U4) (lsb msb : U7) :
    rawDecode kinds [statusByte .pitchBend chan, zextSeven lsb, zextSeven msb] 3 = .ok ⟨.pitchBend, chan, lsb, msb⟩ := by
  rw [rawDecode_statusByte hk (by decide), decodeBody, decodePairBody_eq, saturated_zextSeven, saturated_zextSeven]
  rfl

/-- Settles O30: a pitch bend is a message of two data values, its LSB half the first; the decoders give them back. -/
theorem pitchBendIsLsbFirst : Obligations.PitchBendIsLsbFirst := by
  intro s cable chan lsb msb hk
  have hraw := replyRawEnc_of_two_values (k := .pitchBend) rfl chan lsb msb
  have hpkt := replyPktEnc_of_two_values (k := .pitchBend) rfl cable chan lsb msb
  have hdec := rawDecode_pitchBend hk chan lsb msb
  have hcable : hiNibble (cable ++ 0xE#4) = cable := hiNibble_joinNibbles cable 0xE
  rw [← zextSeven_eq_append, ← zextSeven_eq_append]
  refine ⟨⟨_, presents_iff.2 (congrArg responseOrDefect hraw)⟩, ⟨_, _, presents_iff.2 (congrArg responseOrDefect hpkt)⟩,
    ⟨.pitchBend, chan, lsb, msb⟩, presents_iff.2 ?_, presents_iff.2 ?_, rfl, rfl, pitchBend14_toNat _⟩
  · rw [reply, replyRawDec_complete]
    exact congrArg (fun m => responseOf (m.map .message)) hdec
  · rw [reply, replyPktDec_complete, hcable]
    exact congrArg (fun m => responseOf (m.map (.cabled cable))) hdec

end Sys2Proof.Proofs.ByteLanes

/-! The statements of spec/30_encoding.md: the operation select and its operands (R60, R61), the encoder against the
decoder (R62, R64, R65), the rows of the opcode table (R60, R66), and a status byte that is not decoded (R69). -/

namespace Sys2Proof.Proofs.Encoding

open Sys2Proof Sys2Proof.Machine Sys2Proof.Safety

/-! ### The packet rows, by kind -/

/-- The packet row of a kind: the seven constructors of `packetRow` and of `encode` in one term. -/
def rowOfKind (k : Kind) (cable cin chan : U4) (data1 data2 : Byte) : Instr :=
  match k with
  | .noteOff => .pktNoteOff cable cin chan data1 data2
  | .noteOn => .pktNoteOn cable cin chan data1 data2
  | .polyAftertouch => .pktPolyAftertouch cable cin chan data1 data2
  | .controlChange => .pktControlChange cable cin chan data1 data2
  | .programChange => .pktProgramChange cable cin chan data1 data2
  | .channelAftertouch => .pktChannelAftertouch cable cin chan data1 data2
  | .pitchBend => .pktPitchBend cable cin chan data1 data2

theorem encode_rowOfKind (k : Kind) (cable cin chan : U4) (data1 data2 : Byte) :
    encode (rowOfKind k cable cin chan data1 data2) = rowRequest k cable cin chan data1 data2 := by
  cases k <;> rfl

theorem wf_rowOfKind (k : Kind) (cable cin chan : U4) (data1 data2 : Byte) :
    (rowOfKind k cable cin chan data1 data2).wf = true := by
  cases k <;> rfl

/-- The row of a packet is its status nibble's kind's, with the nibbles of the header and the status byte as fields. -/
theorem packetRow_eq_map (b0 b1 b2 b3 : Byte) :
    packetRow b0 b1 b2 b3 =
      (kindOfNibble (hiNibble b1)).map fun k => rowOfKind k (hiNibble b0) (loNibble b0) (loNibble b1) b2 b3 := by
  unfold packetRow
  cases kindOfNibble (hiNibble b1) with
  | none => rfl
  | some k => cases k <;> rfl

theorem exists_kind_of_isVoiceStatus {b : Byte} (h : isVoiceStatus b = true) :
    ∃ k, kindOfNibble (hiNibble b) = some k :=
  Option.isSome_iff_exists.1 (isVoiceStatus_iff b ▸ h)

/-! ### Decoding a packet -/

theorem decodePacket_of_kind {b1 : Byte} {len : U3} {k : Kind} (hc : isComplete len = true)
    (hk : kindOfNibble (hiNibble b1) = some k) (b0 b2 b3 : Byte) :
    decodePacket b0 b1 b2 b3 len = rowOfKind k (hiNibble b0) (loNibble b0) (loNibble b1) b2 b3 := by
  simp [decodePacket, hc, packetRow_eq_map, hk]

/-- A packet that is incomplete or of no kind is read as PKT_DEC itself. -/
theorem decodePacket_of_no_row {b1 : Byte} {len : U3} (h : (isComplete len && isVoiceStatus b1) = false)
    (b0 b2 b3 : Byte) : decodePacket b0 b1 b2 b3 len = .pktDec b0 b1 b2 b3 len := by
  rcases Bool.and_eq_false_iff.1 h with hc | hv
  · simp [decodePacket, hc]
  · have hk : kindOfNibble (hiNibble b1) = none := by simpa [isVoiceStatus_iff] using hv
    simp [decodePacket, packetRow_eq_map, hk]

/-- The two readings of a PKT_DEC request. -/
theorem decodePacket_cases (b0 b1 b2 b3 : Byte) (len : U3) :
    (∃ k, decodePacket b0 b1 b2 b3 len = rowOfKind k (hiNibble b0) (loNibble b0) (loNibble b1) b2 b3) ∨
    ((isComplete len && isVoiceStatus b1) = false ∧ decodePacket b0 b1 b2 b3 len = .pktDec b0 b1 b2 b3 len) := by
  cases h : isComplete len && isVoiceStatus b1 with
  | true =>
    obtain ⟨hc, hv⟩ := Bool.and_eq_true_iff.1 h
    obtain ⟨k, hk⟩ := exists_kind_of_isVoiceStatus hv
    exact .inl ⟨k, decodePacket_of_kind hc hk b0 b2 b3⟩
  | false => exact .inr ⟨rfl, decodePacket_of_no_row h b0 b2 b3⟩

theorem wf_decodePacket (b0 b1 b2 b3 : Byte) (len : U3) : (decodePacket b0 b1 b2 b3 len).wf = true := by
  rcases decodePacket_cases b0 b1 b2 b3 len with ⟨k, hd⟩ | ⟨hn, hd⟩ <;> rw [hd]
  · exact wf_rowOfKind ..
  · simp only [Instr.wf, hn, Bool.not_false]

theorem op_encode_decodePacket (b0 b1 b2 b3 : Byte) (len : U3) : (encode (decodePacket b0 b1 b2 b3 len)).op = 0x5 := by
  rcases decodePacket_cases b0 b1 b2 b3 len with ⟨k, hd⟩ | ⟨-, hd⟩ <;> rw [hd]
  · rw [encode_rowOfKind]; rfl
  · rfl

/-! ### Encoding, then decoding -/

/-- The fields of a whole packet are read back where its row wrote them (R62, R64, R65). -/
theorem decode_rowRequest (k : Kind) (cable cin chan : U4) (data1 data2 : Byte) :
    decode (rowRequest k cable cin chan data1 data2) = rowOfKind k cable cin chan data1 data2 := by
  have hk : kindOfNibble (hiNibble (statusByte k chan)) = some k := by simp [statusByte]
  calc decode (rowRequest k cable cin chan data1 data2)
      = decodePacket (joinNibbles cable cin) (statusByte k chan) data1 data2 4 := rfl
    _ = rowOfKind k cable cin chan data1 data2 := by
        rw [decodePacket_of_kind (by rfl) hk]
        simp [statusByte]

/-- Settles O7: an operation's inputs are its operands, a packet row's fields come back from its bytes, and a
well-formed PKT_DEC term is one whose packet has no row. -/
theorem encodeThenDecodeIsIdentity : Obligations.EncodeThenDecodeIsIdentity := by
  intro i hwf
  cases i with
  | pktDec b0 b1 b2 b3 len =>
    have hn : (isComplete len && isVoiceStatus b1) = false := by rwa [Instr.wf, Bool.not_eq_true'] at hwf
    exact decodePacket_of_no_row hn b0 b2 b3
  | pktNoteOff => exact decode_rowRequest .noteOff ..
  | pktNoteOn => exact decode_rowRequest .noteOn ..
  | pktPolyAftertouch => exact decode_rowRequest .polyAftertouch ..
  | pktControlChange => exact decode_rowRequest .controlChange ..
  | pktProgramChange => exact decode_rowRequest .programChange ..
  | pktChannelAftertouch => exact decode_rowRequest .channelAftertouch ..
  | pktPitchBend => exact decode_rowRequest .pitchBend ..
  | _ => rfl

/-! ### Decoding, then encoding -/

theorem wf_decode (r : Request) : (decode r).wf = true := by
  unfold decode
  split
  case h_6 => exact wf_decodePacket ..
  all_goals rfl

theorem op_encode_decode (r : Request) : (encode (decode r)).op = r.op := by
  apply BitVec.eq_of_toNat_eq
  unfold decode
  split
  case h_6 h => rw [op_encode_decodePacket, h]; rfl
  case h_16 =>
    have hlt := r.op.isLt
    change 15 = r.op.toNat
    simp only [imp_false] at *
    omega
  all_goals
    rename_i h
    exact h.symm

/-- Settles O8: an operation has no operand to refuse, and a packet is read as its row or as PKT_DEC of no row; both
ask for `op` 0x5. -/
theorem decodedRequestsAreWellFormed : Obligations.DecodedRequestsAreWellFormed :=
  fun r => ⟨wf_decode r, op_encode_decode r⟩

/-! ### The operation select -/

/-- A request is decoded as the one with its `op` written out, on which the decoder computes. -/
theorem decode_of_op {r : Request} {op : U4} {i : Instr} (hi : decode { r with op := op } = i) (h : r.op = op) :
    decode r = i := by
  rw [← hi, ← h]

theorem decode_of_op_pktDec {r : Request} (h : r.op = 0x5) :
    decode r = decodePacket r.pkt0 r.pkt1 r.pkt2 r.pkt3 r.len :=
  decode_of_op rfl h

/-- A PKT_DEC request of a complete packet of a kind decodes to the packet's row. -/
theorem packetRow_eq_decode {r : Request} (h : r.op = 0x5) (hc : isComplete r.len = true)
    (hv : isVoiceStatus r.pkt1 = true) : packetRow r.pkt0 r.pkt1 r.pkt2 r.pkt3 = some (decode r) := by
  obtain ⟨k, hk⟩ := exists_kind_of_isVoiceStatus hv
  rw [decode_of_op_pktDec h, decodePacket_of_kind hc hk, packetRow_eq_map, hk]
  rfl

/-- Settles O6: with its `op` known the decoder computes, but for the two readings of a PKT_DEC request. -/
theorem operationSelectPicksTheRow : Obligations.OperationSelectPicksTheRow := by
  intro r
  refine ⟨decode_of_op rfl, decode_of_op rfl, decode_of_op rfl, decode_of_op rfl, fun h hn => ?_,
    fun h hl hlo hhi => ?_, decode_of_op rfl, decode_of_op rfl, decode_of_op rfl, decode_of_op rfl, decode_of_op rfl,
    decode_of_op rfl, decode_of_op rfl, decode_of_op rfl, decode_of_op rfl, decode_of_op rfl, decode_of_op rfl⟩
  · have hrow : (isComplete r.len && isVoiceStatus r.pkt1) = false := by
      simp only [isComplete, isVoiceStatus, Bool.and_eq_false_iff, decide_eq_false_iff_not]
      omega
    rw [decode_of_op_pktDec h, decodePacket_of_no_row hrow]
  · exact packetRow_eq_decode h (decide_eq_true hl) (by simp [isVoiceStatus, hlo, hhi])

/-- Settles O9: `op` picks the row, and each row's operands are the inputs on which the requests agree. -/
theorem inputsNotReadAreIgnored : Obligations.InputsNotReadAreIgnored := by
  rintro r r' ⟨hop, hin⟩
  unfold decode
  rw [← hop]
  generalize r.op.toNat = n at hin ⊢
  match n, hin with
  | 1, ⟨hkind, hslen⟩ => simp only [hkind, hslen]
  | 2, ⟨hkind, hchan, hd1, hd2⟩ => simp only [hkind, hchan, hd1, hd2]
  | 3, ⟨h0, h1, h2, hlen⟩ => simp only [h0, h1, h2, hlen]
  | 4, ⟨hcable, hkind, hchan, hd1, hd2⟩ => simp only [hcable, hkind, hchan, hd1, hd2]
  | 5, ⟨h0, h1, h2, h3, hlen⟩ => simp only [h0, h1, h2, h3, hlen]
  | 6, hbyte | 7, hbyte | 8, hbyte | 9, hbyte => simp only [show r.byte = r'.byte from hbyte]
  | 0, _ | 10, _ | 11, _ | 12, _ | 13, _ | 14, _ | _ + 15, _ => rfl

/-! ### The opcode table -/

/-- The bits a format's rows look at: `op`, or the status nibble of the packet written as one number. -/
def formatMask : Format → BitVec 32
  | .cmd => 0xF
  | .pkt => 0x00F00000

theorem mask_of_mem_opcodeTable : ∀ row ∈ opcodeTable, row.mask = formatMask row.format := by
  decide

theorem opcodeTable_patterns_nodup : (opcodeTable.map fun row => (row.format, row.pattern)).Nodup := by
  decide

/-- Settles O10: rows of one format look at the same bits, so a word fixes the pattern, and no two rows of a format
share one. -/
theorem tableRowsDoNotOverlap : Obligations.TableRowsDoNotOverlap := by
  intro w a b ha hb hf haw hbw
  have hpa : w &&& formatMask a.format = a.pattern := mask_of_mem_opcodeTable a ha ▸ eq_of_beq haw
  have hpb : w &&& formatMask b.format = b.pattern := mask_of_mem_opcodeTable b hb ▸ eq_of_beq hbw
  have hp : a.pattern = b.pattern := by rw [← hpa, hf, hpb]
  exact List.inj_on_of_nodup_map opcodeTable_patterns_nodup ha hb (Prod.ext hf hp)

/-- Settles O4: the decoder evaluated on each of the seven words. -/
theorem specWordsDecodeToTheirRows : Obligations.SpecWordsDecodeToTheirRows :=
  ⟨rfl, rfl, rfl, rfl, rfl, rfl, rfl⟩

/-! ### A status byte that is not decoded -/

/-- The raw decoder fails on the status byte before it reads a data byte (R69, R151). -/
theorem rawDecode_of_not_recognised {kinds : List Kind} {status : Byte} {n : Nat}
    (h : ∀ k ∈ kinds, kindNibble k ≠ hiNibble status) (hn : 0 < n) (rest : List Byte) :
    rawDecode kinds (status :: rest) n = .error (.invalidEventType status) := by
  have hr : recognised kinds (hiNibble status) = none := recognised_eq_none.2 h
  rw [rawDecode, getByte_of_lt hn (by simp)]
  simp [bind, Except.bind, hr]

/-- Settles O27: both decoders pass on the raw decoder's failure, PKT_DEC once it has a byte behind the header. -/
theorem unrecognisedStatusIsInvalidEventType : Obligations.UnrecognisedStatusIsInvalidEventType := by
  intro s status b0 b1 b2 len h
  refine ⟨fun hlen => presents_iff.2 ?_, fun hlen => presents_iff.2 ?_⟩
  · have hn : 0 < validCount len 3 := by unfold validCount; omega
    rw [reply, replyRawDec, rawDecode_of_not_recognised h hn]
    rfl
  · have hn : 2 ≤ validCount len 4 := by unfold validCount; omega
    rw [reply, replyPktDec, if_neg (by omega), rawDecode_of_not_recognised h (by omega)]
    rfl

end Sys2Proof.Proofs.Encoding

/-! The statements of spec/40_primitives.md: the strict conversions to a Note (R100) and a Cable Number (R102), the
saturating one to seven bits (R101), and the channel of a status byte (R103). -/

namespace Sys2Proof.Proofs.Primitives

open Sys2Proof Sys2Proof.Machine Sys2Proof.Safety Sys2Proof.Proofs.Encoding

/-! ### The conversions, as bytes -/

/-- Saturation on the byte itself (R101). -/
theorem zextSeven_clamp7 (b : Byte) : zextSeven (clamp7 b) = if b.toNat ≤ 0x7F then b else 0x7F := by
  revert b; decide

theorem zextNibble_loNibble (b : Byte) : zextNibble (loNibble b) = b &&& 0x0F := by
  revert b; decide

/-- Masking keeps a byte that is a nibble. -/
theorem and_nibble_of_le {b : Byte} (h : b.toNat ≤ 0x0F) : b &&& 0x0F = b := by
  revert b; decide

/-- NOTE_STRICT accepts a byte unchanged or rejects it (R100). -/
theorem replyNoteStrict_eq (b : Byte) :
    replyNoteStrict b = if b.toNat ≤ 0x7F then .ok (.value b) else .error (.invalidNote b) := by
  unfold replyNoteStrict
  rcases strictNote_cases b with ⟨hb, hs⟩ | ⟨hb, hs⟩ <;> rw [hs]
  · have hz : zextSeven (clamp7 b) = b := by rw [zextSeven_clamp7, if_pos hb]
    simp [bind, Except.bind, pure, Except.pure, hz, hb]
  · simp [bind, Except.bind, hb]

/-- CABLE_STRICT accepts a byte unchanged or rejects it (R102). -/
theorem replyCableStrict_eq (b : Byte) :
    replyCableStrict b = if b.toNat ≤ 0x0F then .ok (.value b) else .error (.invalidCableNumber b) := by
  unfold replyCableStrict strictCable
  by_cases hb : b.toNat ≤ 0x0F
  · have hz : zextNibble (loNibble b) = b := by rw [zextNibble_loNibble, and_nibble_of_le hb]
    simp [bind, Except.bind, pure, Except.pure, hz, hb, Nat.not_lt.2 hb]
  · simp [bind, Except.bind, hb, Nat.not_le.1 hb]

/-! ### The errors of the decoders -/

/-- The data bytes of a raw message in closed form, for every kind (R152 to R158). -/
theorem decodeBody_eq (k : Kind) (chan : U4) (b0 b1 b2 : Byte) (n : Nat) :
    decodeBody k chan [b0, b1, b2] n =
      if n < 2 then .error .missingDataPacket
      else if hasNote k ∧ 127 < b1.toNat then .error (.invalidNote b1)
      else if nData k = 2 ∧ n < 3 then .error .missingDataPacket
      else .ok ⟨k, chan, saturated b1, if nData k = 2 then saturated b2 else 0⟩ := by
  cases k with
  | noteOff | noteOn | polyAftertouch => simp [decodeBody, decodeNoteBody_eq, hasNote, nData]
  | programChange | channelAftertouch => simp [decodeBody, decodeSingleBody_eq, hasNote, nData]
  | controlChange | pitchBend =>
    by_cases h : n < 2
    · simp [decodeBody, decodePairBody_eq, h, show n < 3 by omega]
    · simp [decodeBody, decodePairBody_eq, h, hasNote, nData]

theorem decodeBody_error_cases {k : Kind} {chan : U4} {b0 b1 b2 : Byte} {n : Nat} {e : Err}
    (h : decodeBody k chan [b0, b1, b2] n = .error e) : e = .missingDataPacket ∨ e = .invalidNote b1 := by
  rw [decodeBody_eq] at h
  split_ifs at h <;> cases h
  · exact .inl rfl
  · exact .inr rfl
  · exact .inl rfl

/-- The raw decoder's errors, with their payloads (R163). -/
theorem rawDecode_error_cases {kinds : List Kind} {b0 b1 b2 : Byte} {n : Nat} {e : Err}
    (h : rawDecode kinds [b0, b1, b2] n = .error e) :
    e = .missingDataPacket ∨ e = .invalidEventType b0 ∨ e = .invalidNote b1 := by
  by_cases hn : 0 < n
  · cases hr : recognised kinds (hiNibble b0) with
    | none =>
      rw [rawDecode_of_not_recognised (recognised_eq_none.1 hr) hn] at h
      cases h
      exact .inr (.inl rfl)
    | some k =>
      rw [rawDecode, getByte_of_lt hn (by simp)] at h
      simp only [bind, Except.bind, List.getElem_cons_zero, hr] at h
      exact (decodeBody_error_cases h).imp_right .inr
  · rw [rawDecode, getByte_of_le (by omega)] at h
    cases h
    exact .inl rfl

/-! ### What each operation that may raise an error can raise (spec/60_exceptions.md R226) -/

theorem responseOf_eq_err {x : Except Err Outputs} {e : Err} (h : responseOf x = .err e) : x = .error e := by
  cases x with
  | ok o => cases h
  | error e' => cases h; rfl

theorem responseOrDefect_ne_err (x : Except Defect Outputs) (e : Err) : responseOrDefect x ≠ .err e := by
  cases x <;> nofun

/-- Turning a decoded message into outputs raises nothing. -/
theorem eq_error_of_bind_pure {ε α β : Type} {f : α → β} {x : Except ε α} {e : ε}
    (h : (do let a ← x; pure (f a)) = Except.error e) : x = .error e := by
  cases x with
  | ok a => cases h
  | error e' => cases h; rfl

theorem replyRawDec_error_cases {kinds : List Kind} {b0 b1 b2 : Byte} {len : U3} {e : Err}
    (h : replyRawDec kinds b0 b1 b2 len = .error e) :
    e = .missingDataPacket ∨ e = .invalidEventType b0 ∨ e = .invalidNote b1 :=
  rawDecode_error_cases (eq_error_of_bind_pure h)

theorem replyPktDec_error_cases {kinds : List Kind} {b0 b1 b2 b3 : Byte} {len : U3} {e : Err}
    (h : replyPktDec kinds b0 b1 b2 b3 len = .error e) :
    e = .missingDataPacket ∨ e = .invalidEventType b1 ∨ e = .invalidNote b2 := by
  unfold replyPktDec at h
  split at h
  · cases h
    exact .inl rfl
  · exact rawDecode_error_cases (eq_error_of_bind_pure h)

theorem replyPacketRow_error_cases {kinds : List Kind} {k : Kind} {cable chan : U4} {d1 d2 : Byte} {e : Err}
    (h : replyPacketRow kinds k cable chan d1 d2 = .error e) :
    e = .missingDataPacket ∨ e = .invalidEventType (statusByte k chan) ∨ e = .invalidNote d1 := by
  unfold replyPacketRow at h
  split at h
  · exact (decodeBody_error_cases (eq_error_of_bind_pure h)).imp_right .inr
  · cases h
    exact .inr (.inl rfl)

theorem replyNoteStrict_error {b : Byte} {e : Err} (h : replyNoteStrict b = .error e) : e = .invalidNote b := by
  rw [replyNoteStrict_eq] at h
  split at h <;> cases h
  rfl

theorem replyCableStrict_error {b : Byte} {e : Err} (h : replyCableStrict b = .error e) :
    e = .invalidCableNumber b := by
  rw [replyCableStrict_eq] at h
  split at h <;> cases h
  rfl

/-! ### CABLE_STRICT -/

/-- The only operation that answers `InvalidCableNumber` (R102): what any other one can raise
is another error, or none. -/
theorem eq_cableStrict_of_reply {p : Params} {i : Instr} {b : Byte}
    (h : reply p i = .err (.invalidCableNumber b)) : i = .cableStrict b := by
  cases i with
  | cableStrict b' =>
    cases replyCableStrict_error (responseOf_eq_err h)
    rfl
  | noteStrict b' => cases replyNoteStrict_error (responseOf_eq_err h)
  | rawDec b0 b1 b2 len => rcases replyRawDec_error_cases (responseOf_eq_err h) with he | he | he <;> cases he
  | pktDec b0 b1 b2 b3 len => rcases replyPktDec_error_cases (responseOf_eq_err h) with he | he | he <;> cases he
  | pktNoteOff | pktNoteOn | pktPolyAftertouch | pktControlChange | pktProgramChange | pktChannelAftertouch
  | pktPitchBend => rcases replyPacketRow_error_cases (responseOf_eq_err h) with he | he | he <;> cases he
  | classify | rawEnc | pktEnc => exact absurd h (responseOrDefect_ne_err _ _)
  | _ => cases h

/-- Settles O16: the reply is the accepted byte or the error, and no other instruction's reply is that error. -/
theorem cableStrictAcceptsOrRejects : Obligations.CableStrictAcceptsOrRejects := by
  refine ⟨fun _ => decode_of_op rfl, fun s b => presents_iff.2 ?_, fun i s b h => ?_⟩
  · rw [reply, replyCableStrict_eq]
    split <;> rfl
  · exact eq_cableStrict_of_reply (presents_iff.1 h)

/-! ### The other primitives -/

/-- Settles O14: the reply is the accepted byte or the error. -/
theorem noteStrictAcceptsOrRejects : Obligations.NoteStrictAcceptsOrRejects := by
  refine ⟨fun _ => decode_of_op rfl, fun s b => presents_iff.2 ?_⟩
  rw [reply, replyNoteStrict_eq]
  split <;> rfl

/-- Settles O15: the reply carries the saturated byte. -/
theorem sevenBitClampSaturates : Obligations.SevenBitClampSaturates := by
  refine ⟨fun _ => decode_of_op rfl, fun s b => presents_iff.2 ?_⟩
  rw [reply, zextSeven_clamp7]

/-- Settles O17: the reply carries the low nibble, which is the masked byte. -/
theorem channelOfStatusMasks : Obligations.ChannelOfStatusMasks := by
  refine ⟨fun _ => decode_of_op rfl, fun s b => presents_iff.2 ?_⟩
  rw [reply, zextNibble_loNibble]

end Sys2Proof.Proofs.Primitives

/-! The statements of spec/41_cin_classifier.md: CLASSIFY's table (R121 to R127), its totality on the message classes and
what it depends on (R128), and the CIN of a kind (R129). -/

namespace Sys2Proof.Proofs.Classifier

open Sys2Proof Sys2Proof.Machine Sys2Proof.Safety Sys2Proof.Proofs.Encoding

/-! ### The CIN of a length -/

theorem length_cases (len : U2) : len = 0 ∨ len = 1 ∨ len = 2 ∨ len = 3 := by
  revert len; decide

theorem systemCommonCin_eq_ite (len : U2) :
    systemCommonCin len =
      if len = 1 then .ok 0x5 else if len = 2 then .ok 0x2 else if len = 3 then .ok 0x3
      else .error .undeterminedLength := by
  rcases length_cases len with rfl | rfl | rfl | rfl <;> rfl

theorem sysexEndCin_eq_ite (len : U2) :
    sysexEndCin len =
      if len = 1 then .ok 0x5 else if len = 2 then .ok 0x6 else if len = 3 then .ok 0x7
      else .error .undeterminedLength := by
  rcases length_cases len with rfl | rfl | rfl | rfl <;> rfl

/-- A length of at least 1 determines the CIN of both classes that read it (R124, R126). -/
theorem exists_cin_of_length {len : U2} (h : 1 ≤ len.toNat) :
    (∃ cin, systemCommonCin len = .ok cin) ∧ ∃ cin, sysexEndCin len = .ok cin := by
  rcases length_cases len with rfl | rfl | rfl | rfl
  · simp at h
  all_goals exact ⟨⟨_, rfl⟩, _, rfl⟩

/-! ### The CIN of a class code -/

/-- A channel-voice class and the single-byte class are their own CIN (R122, R123). -/
theorem classCin_of_eight_le {c : U4} (h : 0x8 ≤ c.toNat) (len : U2) : classCin c len = .ok c := by
  revert c len; decide

/-- The codes 0x0 and 0x4..0x7 name no class (R127). -/
theorem classCin_of_reserved {c : U4} (h : c.toNat < 0x8) (h1 : c ≠ 0x1) (h2 : c ≠ 0x2) (h3 : c ≠ 0x3) (len : U2) :
    classCin c len = .error .unknownClass := by
  revert c len; decide

/-- CLASSIFY's table by class code (R121). -/
theorem classCin_eq_ite (c : U4) (len : U2) :
    classCin c len =
      if 0x8 ≤ c.toNat then .ok c
      else if c = 0x1 then systemCommonCin len
      else if c = 0x2 then .ok 0x4
      else if c = 0x3 then sysexEndCin len
      else .error .unknownClass := by
  split_ifs with hv h1 h2 h3
  · exact classCin_of_eight_le hv len
  · rw [h1]; rfl
  · rw [h2]; rfl
  · rw [h3]; rfl
  · exact classCin_of_reserved (by omega) h1 h2 h3 len

/-- Only SYSTEM_COMMON and SYSEX_END read the length (R128). -/
theorem classCin_congr_len {c : U4} {len len' : U2} (h : c = 0x1 ∨ c = 0x3 → len = len') :
    classCin c len = classCin c len' := by
  by_cases hc : c = 0x1 ∨ c = 0x3
  · rw [h hc]
  · obtain ⟨h1, h3⟩ := not_or.1 hc
    simp only [classCin_eq_ite, if_neg h1, if_neg h3]

/-- Each class has a CIN, where it reads a length with one of at least 1 (R128). -/
theorem exists_classCin {c : U4} {len : U2} (h : c = 0x2 ∨ 0x8 ≤ c.toNat ∨ ((c = 0x1 ∨ c = 0x3) ∧ 1 ≤ len.toNat)) :
    ∃ cin, classCin c len = .ok cin := by
  rcases h with rfl | hv | ⟨rfl | rfl, hlen⟩
  · exact ⟨_, rfl⟩
  · exact ⟨c, classCin_of_eight_le hv len⟩
  · exact (exists_cin_of_length hlen).1
  · exact (exists_cin_of_length hlen).2

theorem eight_le_kindNibble (k : Kind) : 0x8 ≤ (kindNibble k).toNat := by
  cases k <;> decide

/-! ### CLASSIFY's response -/

/-- CLASSIFY presents the CIN of its class, or its defect, whatever the state. -/
theorem presents_classify_iff {c : U4} {len : U2} {s : State} {r : Response} :
    Presents (.classify c len) s r ↔ responseOrDefect ((classCin c len).map .cin) = r := by
  have hr : reply s.params (.classify c len) = responseOrDefect ((classCin c len).map .cin) := by
    rw [reply, replyClassify]
    cases classCin c len <;> rfl
  rw [presents_iff, hr]

/-- Settles O19: every class has a CIN, and the response is read off the class's CIN, which depends on the length for
two classes alone. -/
theorem classifyIsTotalOnClasses : Obligations.ClassifyIsTotalOnClasses := by
  refine ⟨fun s c len h => ?_, fun s s' c len len' r h hr => ?_⟩
  · obtain ⟨cin, hcin⟩ := exists_classCin h
    exact ⟨cin, presents_classify_iff.2 (by rw [hcin]; rfl)⟩
  · rw [presents_classify_iff] at hr ⊢
    rw [← classCin_congr_len h, hr]

/-- Settles O18: the response of each entry of the table, by class code and then by length. -/
theorem classifyGivesTheTabledCin : Obligations.ClassifyGivesTheTabledCin := by
  refine ⟨fun _ => decode_of_op rfl, fun s c len => presents_classify_iff.2 ?_⟩
  rw [classCin_eq_ite, systemCommonCin_eq_ite, sysexEndCin_eq_ite]
  split_ifs <;> rfl

/-- Settles O20: a kind's nibble is a channel-voice class code, which is its own CIN. -/
theorem cinOfAKindIsItsClassification : Obligations.CinOfAKindIsItsClassification := fun _ k _ =>
  ⟨rfl, presents_classify_iff.2 (by rw [classCin_of_eight_le (eight_le_kindNibble k)]; rfl)⟩

end Sys2Proof.Proofs.Classifier

/-! The statements of spec/42_raw_codec.md: RAW_ENC on every kind and on no kind (R140 to R149), RAW_DEC against the list
of its failures (R150 to R164), the round trip (R165), and the packet rows, which read the same data bytes. -/

namespace Sys2Proof.Proofs.RawCodec

open Sys2Proof Sys2Proof.Machine Sys2Proof.Safety Sys2Proof.Proofs.Scope Sys2Proof.Proofs.ByteLanes
open Sys2Proof.Proofs.Encoding Sys2Proof.Proofs.Primitives

/-! ### Encoding -/

theorem nData_eq_one_or_two (k : Kind) : nData k = 1 ∨ nData k = 2 := by
  cases k <;> decide

/-- The kinds with one data value are ProgramChange and ChannelAftertouch (R146, R147). -/
theorem kindNibble_eq_C_or_D_iff (k : Kind) : kindNibble k = 0xC ∨ kindNibble k = 0xD ↔ nData k ≠ 2 := by
  cases k <;> decide

/-- The raw message of every kind: its length is one more than the number of data values, and lane 2 is zero where the
kind has one value (R140). -/
theorem replyRawEnc_kindNibble (k : Kind) (chan : U4) (d1 d2 : U7) :
    replyRawEnc (kindNibble k) chan d1 d2 =
      .ok (.raw (statusByte k chan) (zextSeven d1) (if nData k = 2 then zextSeven d2 else 0)
        (BitVec.ofNat 3 (nData k + 1))) := by
  rcases nData_eq_one_or_two k with hk | hk
  · simp [replyRawEnc, renderRaw, hk]
  · rw [replyRawEnc_of_two_values hk, if_pos hk, hk]
    rfl

theorem replyRawEnc_of_no_kind {kind : U4} (h : kindOfNibble kind = none) (chan : U4) (d1 d2 : U7) :
    replyRawEnc kind chan d1 d2 = .error .unrenderableMessage := by
  simp [replyRawEnc, h]

theorem replyPktEnc_of_no_kind {kind : U4} (h : kindOfNibble kind = none) (cable chan : U4) (d1 d2 : U7) :
    replyPktEnc cable kind chan d1 d2 = .error .unrenderableMessage := by
  simp [replyPktEnc, h]

theorem kindOfNibble_eq_none_of_ne {n : U4} (h : ∀ k : Kind, kindNibble k ≠ n) : kindOfNibble n = none :=
  Option.eq_none_iff_forall_ne_some.2 fun k hk => h k (kindOfNibble_eq_some_iff.1 hk)

/-- Settles O22: the nibble names no kind, so neither encoder has a message to render. -/
theorem unrenderableKindIsADefect : Obligations.UnrenderableKindIsADefect := by
  intro s cable kind chan d1 d2 h
  have hk := kindOfNibble_eq_none_of_ne h
  exact ⟨presents_iff.2 (congrArg responseOrDefect (replyRawEnc_of_no_kind hk chan d1 d2)),
    presents_iff.2 (congrArg responseOrDefect (replyPktEnc_of_no_kind hk cable chan d1 d2))⟩

/-- Settles O21: the nibble names no kind, or one with two data values, or one with one. -/
theorem rawEncWritesStatusAndData : Obligations.RawEncWritesStatusAndData := by
  refine ⟨fun _ => decode_of_op rfl, fun s kind chan d1 d2 => presents_iff.2 ?_⟩
  rw [reply, ← zextSeven_eq_append, ← zextSeven_eq_append]
  cases hk : kindOfNibble kind with
  | none =>
    rw [replyRawEnc_of_no_kind hk, if_pos ((kindOfNibble_eq_none_iff kind).1 hk)]
    rfl
  | some k =>
    have hv : ¬ (kind.toNat < 0x8 ∨ kind = 0xF) := by
      rw [← kindOfNibble_eq_none_iff, hk]
      nofun
    obtain rfl := kindNibble_of_kindOfNibble hk
    rw [if_neg hv, replyRawEnc_kindNibble]
    rcases nData_eq_one_or_two k with hn | hn
    · rw [if_pos ((kindNibble_eq_C_or_D_iff k).2 (by omega)), if_neg (by omega), hn]
      rfl
    · rw [if_neg (fun hc => (kindNibble_eq_C_or_D_iff k).1 hc hn), if_pos hn, hn]
      rfl

/-! ### The raw decoder -/

theorem rawDecode_of_no_byte {n : Nat} (h : n < 1) (kinds : List Kind) (r : List Byte) :
    rawDecode kinds r n = .error .missingDataPacket := by
  rw [rawDecode, getByte_of_le (by omega)]
  rfl

/-- A status byte of a decoded kind leads to that kind's data bytes, with the low nibble as the channel (R151, R161). -/
theorem rawDecode_of_recognised {kinds : List Kind} {status : Byte} {k : Kind} {n : Nat}
    (h : recognised kinds (hiNibble status) = some k) (hn : 0 < n) (rest : List Byte) :
    rawDecode kinds (status :: rest) n = decodeBody k (loNibble status) (status :: rest) n := by
  obtain ⟨hk, hs⟩ := recognised_eq_some.1 h
  have hb : statusByte k (loNibble status) = status := by rw [statusByte, hs, joinNibbles_nibbles]
  have hd := rawDecode_statusByte hk hn (loNibble status) rest
  rwa [hb] at hd

/-- On three lanes the status byte of a decoded kind leads to the kind's data bytes whatever the count: with no valid
byte both report missing data. -/
theorem rawDecode_statusByte_three {kinds : List Kind} {k : Kind} (hk : k ∈ kinds) (chan : U4) (b1 b2 : Byte) (n : Nat) :
    rawDecode kinds [statusByte k chan, b1, b2] n = decodeBody k chan [statusByte k chan, b1, b2] n := by
  by_cases hn : n < 1
  · rw [rawDecode_of_no_byte hn, decodeBody_eq, if_pos (by omega)]
  · exact rawDecode_statusByte hk (by omega) chan [b1, b2]

/-! ### The decoder in closed form -/

theorem hiNibble_toNat (b : Byte) : (hiNibble b).toNat = b.toNat / 16 := by
  revert b; decide

theorem loNibble_eq_ofNat (b : Byte) : loNibble b = BitVec.ofNat 4 b.toNat := by
  revert b; decide

/-- The kind a status byte selects is the one found in `P_DECODE_KINDS` by its top nibble. -/
theorem find?_eq_recognised (kinds : List Kind) (b : Byte) :
    (kinds.find? fun k => (kindNibble k).toNat == b.toNat / 16) = recognised kinds (hiNibble b) := by
  have hp : ∀ k, ((kindNibble k).toNat == b.toNat / 16) = true ↔ kindNibble k = hiNibble b := fun k => by
    rw [beq_iff_eq, ← hiNibble_toNat, BitVec.toNat_inj]
  cases hf : kinds.find? fun k => (kindNibble k).toNat == b.toNat / 16 with
  | none =>
    have hn := List.find?_eq_none.1 hf
    exact (recognised_eq_none.2 fun k hk h => hn k hk ((hp k).2 h)).symm
  | some k =>
    have hk := List.find?_some (p := fun k => (kindNibble k).toNat == b.toNat / 16) hf
    exact (recognised_eq_some.2 ⟨List.mem_of_find?_eq_some hf, (hp k).1 hk⟩).symm

/-- The raw decoder, on three lanes and any count, meets R163's list of failures in its order. -/
theorem rawDecode_eq_decodedOrFirstFailure (kinds : List Kind) (b0 b1 b2 : Byte) (n : Nat) :
    rawDecode kinds [b0, b1, b2] n = decodedOrFirstFailure kinds b0 b1 b2 n := by
  rw [decodedOrFirstFailure, find?_eq_recognised]
  by_cases hn : n < 1
  · rw [if_pos hn, rawDecode_of_no_byte hn]
  · rw [if_neg hn]
    cases hr : recognised kinds (hiNibble b0) with
    | none => exact rawDecode_of_not_recognised (recognised_eq_none.1 hr) (by omega) [b1, b2]
    | some k => rw [rawDecode_of_recognised hr (by omega), decodeBody_eq, loNibble_eq_ofNat]

/-- RAW_DEC presents the raw decoder's outcome on its three lanes. -/
theorem presents_rawDec_iff {b0 b1 b2 : Byte} {len : U3} {s : State} {r : Response} :
    Presents (.rawDec b0 b1 b2 len) s r ↔
      responseOf ((rawDecode s.params.decodeKinds [b0, b1, b2] (validCount len 3)).map .message) = r := by
  rw [presents_iff, reply, replyRawDec]
  cases rawDecode s.params.decodeKinds [b0, b1, b2] (validCount len 3) <;> rfl

/-- Settles O26: RAW_DEC presents the raw decoder's outcome, which is the closed form. -/
theorem rawDecReportsTheFirstFailure : Obligations.RawDecReportsTheFirstFailure := by
  refine ⟨fun _ => decode_of_op rfl, fun s b0 b1 b2 len => presents_rawDec_iff.2 ?_⟩
  rw [rawDecode_eq_decodedOrFirstFailure, validCount]
  cases decodedOrFirstFailure s.params.decodeKinds b0 b1 b2 (min len.toNat 3) <;> rfl

/-! ### The channel -/

theorem chan_of_decodeBody_ok {k : Kind} {chan : U4} {b0 b1 b2 : Byte} {n : Nat} {m : Message}
    (h : decodeBody k chan [b0, b1, b2] n = .ok m) : m.chan = chan := by
  rw [decodeBody_eq] at h
  split_ifs at h <;> cases h <;> rfl

theorem chan_of_rawDecode_ok {kinds : List Kind} {b0 b1 b2 : Byte} {n : Nat} {m : Message}
    (h : rawDecode kinds [b0, b1, b2] n = .ok m) : m.chan = loNibble b0 := by
  by_cases hn : n < 1
  · rw [rawDecode_of_no_byte hn] at h
    cases h
  · cases hr : recognised kinds (hiNibble b0) with
    | none =>
      rw [rawDecode_of_not_recognised (recognised_eq_none.1 hr) (by omega)] at h
      cases h
    | some k =>
      rw [rawDecode_of_recognised hr (by omega)] at h
      exact chan_of_decodeBody_ok h

/-- The channel a raw message decodes to, as the masked byte of R161. -/
theorem append_chan_of_rawDecode_ok {kinds : List Kind} {b0 b1 b2 : Byte} {n : Nat} {m : Message}
    (h : rawDecode kinds [b0, b1, b2] n = .ok m) : 0#4 ++ m.chan = b0 &&& 0x0F := by
  rw [← zextNibble_eq_append, chan_of_rawDecode_ok h, zextNibble_loNibble]

/-- An operation that turns a decoded message into outputs ends in OK only where the decoder does. -/
theorem exists_ok_of_responseOf_map {x : Except Err Message} {f : Message → Outputs} {o : Outputs}
    (h : responseOf (x.map f) = .ok o) : ∃ m, x = .ok m ∧ f m = o := by
  cases x with
  | ok m =>
    cases h
    exact ⟨m, rfl, rfl⟩
  | error e => cases h

/-- PKT_DEC with a byte behind the header hands the rest to the raw decoder (R194). -/
theorem replyPktDec_eq_map {len : U3} (h : ¬ validCount len 4 < 2) (kinds : List Kind) (b0 b1 b2 b3 : Byte) :
    replyPktDec kinds b0 b1 b2 b3 len =
      (rawDecode kinds [b1, b2, b3] (validCount len 4 - 1)).map (.cabled (hiNibble b0)) := by
  rw [replyPktDec, if_neg h]
  cases rawDecode kinds [b1, b2, b3] (validCount len 4 - 1) <;> rfl

/-- Settles O28: both decoders end in OK only with a message of the raw decoder, whose channel is the low nibble. -/
theorem decodeKeepsTheChannel : Obligations.DecodeKeepsTheChannel := by
  refine ⟨fun s b0 b1 b2 len m h => ?_, fun s b0 b1 b2 b3 len cable m h => ?_⟩
  · obtain ⟨_, hm, ⟨⟩⟩ := exists_ok_of_responseOf_map (presents_rawDec_iff.1 h)
    exact append_chan_of_rawDecode_ok hm
  · rw [presents_iff, reply] at h
    by_cases hn : validCount len 4 < 2
    · rw [replyPktDec, if_pos hn] at h
      cases h
    · rw [replyPktDec_eq_map hn] at h
      obtain ⟨_, hm, ⟨⟩⟩ := exists_ok_of_responseOf_map h
      exact append_chan_of_rawDecode_ok hm

/-! ### The round trip -/

theorem zextSeven_toNat_le (v : U7) : (zextSeven v).toNat ≤ 127 := by
  revert v; decide

/-- A kind's data bytes decode where all of them are valid and a note is in range (R152 to R158). -/
theorem decodeBody_eq_ok {k : Kind} {b1 : Byte} {n : Nat} (hn : nData k < n)
    (hnote : hasNote k = true → b1.toNat ≤ 127) (chan : U4) (b0 b2 : Byte) :
    decodeBody k chan [b0, b1, b2] n = .ok ⟨k, chan, saturated b1, if nData k = 2 then saturated b2 else 0⟩ := by
  have hd := nData_eq_one_or_two k
  have h1 : ¬ (hasNote k = true ∧ 127 < b1.toNat) := fun ⟨hk, hb⟩ => Nat.not_lt.2 (hnote hk) hb
  rw [decodeBody_eq, if_neg (by omega), if_neg h1, if_neg (by omega)]

/-- The length RAW_ENC gives is the count RAW_DEC reads: it fits the port and the lanes. -/
theorem validCount_length (k : Kind) : validCount (BitVec.ofNat 3 (nData k + 1)) 3 = nData k + 1 := by
  cases k <;> rfl

/-- Settles O29: the bytes RAW_ENC writes are the status byte of the kind and data bytes that saturation keeps. -/
theorem rawRoundTrip : Obligations.RawRoundTrip := by
  intro s s' k chan d1 d2 hp hk
  rw [hp] at hk
  refine ⟨_, _, _, _, ⟨k, chan, d1, if nData k = 2 then d2 else 0⟩,
    presents_iff.2 (congrArg responseOrDefect (replyRawEnc_kindNibble k chan d1 d2)), presents_rawDec_iff.2 ?_,
    rfl, rfl, rfl, fun hd => if_pos hd⟩
  rw [rawDecode_statusByte_three hk, validCount_length,
    decodeBody_eq_ok (Nat.lt_succ_self _) fun _ => zextSeven_toNat_le d1, saturated_zextSeven]
  split_ifs
  · rw [saturated_zextSeven]
    rfl
  · rfl

/-! ### RAW_DEC by kind -/

/-- RAW_DEC of a kind the unit decodes presents the outcome of the kind's data bytes. -/
theorem presents_rawDec_of_mem {k : Kind} {chan : U4} {b1 b2 : Byte} {len : U3} {s : State} {r : Response}
    (hk : k ∈ s.params.decodeKinds)
    (h : responseOf ((decodeBody k chan [statusByte k chan, b1, b2] (validCount len 3)).map .message) = r) :
    Presents (.rawDec (kindNibble k ++ chan) b1 b2 len) s r :=
  presents_rawDec_iff.2 (by rw [← h, ← rawDecode_statusByte_three hk]; rfl)

theorem decodeBody_of_note_kind {k : Kind} (h : k = .noteOff ∨ k = .noteOn ∨ k = .polyAftertouch) :
    decodeBody k = decodeNoteBody k := by
  rcases h with rfl | rfl | rfl <;> rfl

theorem decodeBody_of_pair_kind {k : Kind} (h : k = .controlChange ∨ k = .pitchBend) :
    decodeBody k = decodePairBody k := by
  rcases h with rfl | rfl <;> rfl

theorem decodeBody_of_single_kind {k : Kind} (h : k = .programChange ∨ k = .channelAftertouch) :
    decodeBody k = decodeSingleBody k := by
  rcases h with rfl | rfl <;> rfl

/-- A byte in range is its own saturation. -/
theorem saturated_of_le {b : Byte} (h : b.toNat ≤ 127) : saturated b = BitVec.ofNat 7 b.toNat := by
  rw [saturated, Nat.min_eq_left h]

/-- A note kind's data bytes with too few valid raises an error: missing data, or before it a note out of range. -/
theorem exists_error_of_short_note {n : Nat} (h : n < 3) (k : Kind) (chan : U4) (b0 b1 b2 : Byte) :
    ∃ e, decodeNoteBody k chan [b0, b1, b2] n = .error e := by
  rw [decodeNoteBody_eq, if_pos h]
  split_ifs <;> exact ⟨_, rfl⟩

/-- A note kind with all its bytes: the strict note, then the clamped byte (R152 to R154). -/
theorem decodeNoteBody_complete (k : Kind) (chan : U4) (b0 b1 b2 : Byte) :
    decodeNoteBody k chan [b0, b1, b2] 3 =
      if b1.toNat ≤ 127 then .ok ⟨k, chan, BitVec.ofNat 7 b1.toNat, saturated b2⟩ else .error (.invalidNote b1) := by
  rw [decodeNoteBody_eq, if_neg (by decide)]
  by_cases hb : b1.toNat ≤ 127
  · rw [if_neg (by omega), if_neg (by decide), if_pos hb, saturated_of_le hb]
  · rw [if_pos (by omega), if_neg hb]

/-- Settles O23: with all bytes valid the outcome turns on the note; with fewer there is none but an error. -/
theorem rawDecOfNoteKinds : Obligations.RawDecOfNoteKinds := by
  intro s k chan b1 b2 len hk hkind
  have hbody := decodeBody_of_note_kind hkind
  refine ⟨fun hlen hb => presents_rawDec_of_mem hk ?_, fun hlen hb => presents_rawDec_of_mem hk ?_, fun hlen => ?_⟩
  · rw [hbody, validCount_of_le hlen, decodeNoteBody_complete, if_pos hb]
    rfl
  · rw [hbody, validCount_of_le hlen, decodeNoteBody_complete, if_neg (by omega)]
    rfl
  · have hn : validCount len 3 < 3 := by unfold validCount; omega
    obtain ⟨e, he⟩ := exists_error_of_short_note hn k chan (statusByte k chan) b1 b2
    exact ⟨e, presents_rawDec_of_mem hk (by rw [hbody, he]; rfl)⟩

/-- Settles O24: the data bytes of a pair kind fail exactly on a count below 3. -/
theorem rawDecOfPairKinds : Obligations.RawDecOfPairKinds := by
  intro s k chan b1 b2 len hk hkind
  have hbody := decodeBody_of_pair_kind hkind
  refine ⟨fun hlen => presents_rawDec_of_mem hk ?_, fun hlen => presents_rawDec_of_mem hk ?_⟩
  · rw [hbody, decodePairBody_eq, if_neg (by unfold validCount; omega)]
    rfl
  · rw [hbody, decodePairBody_eq, if_pos (by unfold validCount; omega)]
    rfl

/-- Settles O25: the data byte of a one-value kind fails exactly on a count below 2. -/
theorem rawDecOfSingleKinds : Obligations.RawDecOfSingleKinds := by
  intro s k chan b1 b2 len hk hkind
  have hbody := decodeBody_of_single_kind hkind
  refine ⟨fun hlen => presents_rawDec_of_mem hk ?_, fun hlen => presents_rawDec_of_mem hk ?_⟩
  · rw [hbody, decodeSingleBody_eq, if_neg (by unfold validCount; omega)]
    rfl
  · rw [hbody, decodeSingleBody_eq, if_pos (by unfold validCount; omega)]
    rfl

/-! ### The packet rows -/

theorem reply_rowOfKind (p : Params) (k : Kind) (cable cin chan : U4) (d1 d2 : Byte) :
    reply p (rowOfKind k cable cin chan d1 d2) = responseOf (replyPacketRow p.decodeKinds k cable chan d1 d2) := by
  cases k <;> rfl

/-- The row of a kind the unit decodes presents the outcome of the kind's data bytes, all of them valid. -/
theorem presents_rowOfKind {k : Kind} {s : State} {cable chan : U4} {d1 d2 : Byte} {r : Response}
    (hk : k ∈ s.params.decodeKinds)
    (h : responseOf ((decodeBody k chan [statusByte k chan, d1, d2] 3).map (.cabled cable)) = r) (cin : U4) :
    Presents (rowOfKind k cable cin chan d1 d2) s r := by
  rw [presents_iff, reply_rowOfKind, replyPacketRow, if_pos hk, ← h]
  cases decodeBody k chan [statusByte k chan, d1, d2] 3 <;> rfl

theorem presents_rowOfKind_note {k : Kind} {s : State} (hkind : k = .noteOff ∨ k = .noteOn ∨ k = .polyAftertouch)
    (hk : k ∈ s.params.decodeKinds) (cable cin chan : U4) (note other : Byte) :
    Presents (rowOfKind k cable cin chan note other) s
      (if note.toNat ≤ 127 then .ok (.cabled cable ⟨k, chan, BitVec.ofNat 7 note.toNat, saturated other⟩)
      else .err (.invalidNote note)) := by
  refine presents_rowOfKind hk ?_ cin
  rw [decodeBody_of_note_kind hkind, decodeNoteBody_complete]
  split <;> rfl

/-- Settles O41: each of the three rows is its kind's, and reads the note and the other byte. -/
theorem packetRowsOfNoteKinds : Obligations.PacketRowsOfNoteKinds := fun _ cable cin chan note other =>
  ⟨fun hk => presents_rowOfKind_note (.inl rfl) hk cable cin chan note other,
    fun hk => presents_rowOfKind_note (.inr (.inl rfl)) hk cable cin chan note other,
    fun hk => presents_rowOfKind_note (.inr (.inr rfl)) hk cable cin chan note other⟩

/-- A kind without a note cannot fail on a whole packet: its data bytes are clamped (R155 to R158). -/
theorem presents_rowOfKind_clamped {k : Kind} {s : State} (hnote : hasNote k = false)
    (hk : k ∈ s.params.decodeKinds) (cable cin chan : U4) (d1 d2 : Byte) :
    Presents (rowOfKind k cable cin chan d1 d2) s
      (.ok (.cabled cable ⟨k, chan, saturated d1, if nData k = 2 then saturated d2 else 0⟩)) := by
  have hn : nData k < 3 := by have := nData_eq_one_or_two k; omega
  refine presents_rowOfKind hk ?_ cin
  rw [decodeBody_eq_ok hn (by simp [hnote])]
  rfl

/-- Settles O42: each of the four rows is its kind's, none of which carries a note. -/
theorem packetRowsOfClampedKinds : Obligations.PacketRowsOfClampedKinds := fun _ cable cin chan d1 d2 =>
  ⟨fun hk => presents_rowOfKind_clamped rfl hk cable cin chan d1 d2,
    fun hk => presents_rowOfKind_clamped rfl hk cable cin chan d1 d2,
    fun hk => presents_rowOfKind_clamped rfl hk cable cin chan d1 d2,
    fun hk => presents_rowOfKind_clamped rfl hk cable cin chan d1 d2⟩

end Sys2Proof.Proofs.RawCodec

/-! The statements of spec/43_packet_codec.md: PKT_ENC's frame around the raw message (R190 to R192), PKT_DEC against
the list of its failures (R194 to R198, R202) and against the packet rows, the round trip (R199), and the packets that
decoding and encoding give back (R200, R201). -/

namespace Sys2Proof.Proofs.PacketCodec

open Sys2Proof Sys2Proof.Machine Sys2Proof.Safety Sys2Proof.Proofs.Scope Sys2Proof.Proofs.ByteLanes
open Sys2Proof.Proofs.Encoding Sys2Proof.Proofs.Primitives Sys2Proof.Proofs.Classifier Sys2Proof.Proofs.RawCodec

/-! ### Status bytes -/

theorem kindNibble_inj {k k' : Kind} : kindNibble k = kindNibble k' ↔ k = k' := by
  rw [← kindOfNibble_eq_some_iff, kindOfNibble_kindNibble, Option.some_inj, eq_comm]

theorem hiNibble_statusByte (k : Kind) (chan : U4) : hiNibble (statusByte k chan) = kindNibble k :=
  hiNibble_joinNibbles (kindNibble k) chan

/-- A byte whose top nibble is a kind's is that kind's status byte on its own channel (R43). -/
theorem statusByte_loNibble {k : Kind} {b : Byte} (h : kindNibble k = hiNibble b) : statusByte k (loNibble b) = b := by
  rw [statusByte, h, joinNibbles_nibbles]

/-! ### Encoding -/

/-- The packet of every kind: the header, the status byte, the first data value, and the second or padding (R190). -/
theorem replyPktEnc_kindNibble (k : Kind) (cable chan : U4) (d1 d2 : U7) :
    replyPktEnc cable (kindNibble k) chan d1 d2 =
      .ok (.packet (joinNibbles cable (kindNibble k)) (statusByte k chan) (zextSeven d1)
        (if nData k = 2 then zextSeven d2 else 0) 4) := by
  rcases nData_eq_one_or_two k with hk | hk
  · simp [replyPktEnc, renderRaw, hk, cinOf]
  · rw [replyPktEnc_of_two_values hk, if_pos hk, cinOf]

theorem presents_pktEnc_kindNibble (k : Kind) (cable chan : U4) (d1 d2 : U7) (s : State) :
    Presents (.pktEnc cable (kindNibble k) chan d1 d2) s
      (.ok (.packet (joinNibbles cable (kindNibble k)) (statusByte k chan) (zextSeven d1)
        (if nData k = 2 then zextSeven d2 else 0) 4)) :=
  presents_iff.2 (congrArg responseOrDefect (replyPktEnc_kindNibble k cable chan d1 d2))

/-- Settles O31: the nibble names no kind, or one whose packet ends in padding, or one whose packet does not. -/
theorem pktEncFramesTheMessage : Obligations.PktEncFramesTheMessage := by
  refine ⟨fun _ => decode_of_op rfl, fun s cable kind chan d1 d2 => ?_⟩
  rw [← zextSeven_eq_append, ← zextSeven_eq_append]
  cases hk : kindOfNibble kind with
  | none =>
    rw [if_pos ((kindOfNibble_eq_none_iff kind).1 hk)]
    exact presents_iff.2 (congrArg responseOrDefect (replyPktEnc_of_no_kind hk cable chan d1 d2))
  | some k =>
    have hv : ¬ (kind.toNat < 0x8 ∨ kind = 0xF) := by
      rw [← kindOfNibble_eq_none_iff, hk]
      nofun
    obtain rfl := kindNibble_of_kindOfNibble hk
    have h := presents_pktEnc_kindNibble k cable chan d1 d2 s
    rw [if_neg hv]
    simp only [kindNibble_eq_C_or_D_iff, ite_not]
    exact h

/-! ### PKT_DEC -/

/-- Settles O37: the count is checked before any lane is read. -/
theorem shortPacketsAreMissingData : Obligations.ShortPacketsAreMissingData := by
  intro s b0 b1 b2 b3 len h
  have hn : validCount len 4 < 2 := by unfold validCount; omega
  rw [presents_iff, reply, replyPktDec, if_pos hn]
  rfl

/-- With a byte behind the header PKT_DEC presents the raw decoder's outcome on the rest, beside the cable (R194). -/
theorem presents_pktDec_iff {len : U3} (h : 2 ≤ len.toNat) {b0 b1 b2 b3 : Byte} {s : State} {r : Response} :
    Presents (.pktDec b0 b1 b2 b3 len) s r ↔
      responseOf ((rawDecode s.params.decodeKinds [b1, b2, b3] (min len.toNat 4 - 1)).map (.cabled (hiNibble b0))) =
        r := by
  have hn : ¬ validCount len 4 < 2 := by unfold validCount; omega
  rw [presents_iff, reply, replyPktDec_eq_map hn, validCount]

/-! ### The packet rows -/

/-- A packet row answers as the raw decoder does on the packet's status and data bytes (R151 to R158, R194). -/
theorem replyPacketRow_eq_map (kinds : List Kind) (k : Kind) (cable chan : U4) (d1 d2 : Byte) :
    replyPacketRow kinds k cable chan d1 d2 =
      (rawDecode kinds [statusByte k chan, d1, d2] 3).map (.cabled cable) := by
  by_cases hk : k ∈ kinds
  · rw [replyPacketRow, if_pos hk, rawDecode_statusByte hk (by decide)]
    cases decodeBody k chan [statusByte k chan, d1, d2] 3 <;> rfl
  · have hn : ∀ k' ∈ kinds, kindNibble k' ≠ hiNibble (statusByte k chan) := by
      intro k' hk' h
      rw [hiNibble_statusByte, kindNibble_inj] at h
      exact hk (h ▸ hk')
    rw [replyPacketRow, if_neg hk, rawDecode_of_not_recognised hn (by decide)]
    rfl

/-- Settles O43: the row of a packet is its status nibble's kind's, and both hand the same three bytes to the raw
decoder. -/
theorem packetRowsAgreeWithPktDec : Obligations.PacketRowsAgreeWithPktDec := by
  intro s b0 b1 b2 b3 len i r hlen hrow
  rw [packetRow_eq_map] at hrow
  obtain ⟨k, hk, rfl⟩ := Option.map_eq_some_iff.1 hrow
  have hb : statusByte k (loNibble b1) = b1 := statusByte_loNibble (kindNibble_of_kindOfNibble hk)
  rw [presents_pktDec_iff (by omega), Nat.min_eq_right hlen, presents_iff, reply_rowOfKind, replyPacketRow_eq_map, hb]

/-- A PKT_DEC request presents what PKT_DEC of its lanes and count does, whichever row it takes. -/
theorem presents_decode_iff_pktDec {q : Request} (h : q.op = 0x5) {s : State} {r : Response} :
    Presents (decode q) s r ↔ Presents (.pktDec q.pkt0 q.pkt1 q.pkt2 q.pkt3 q.len) s r := by
  rw [decode_of_op_pktDec h, decodePacket]
  by_cases hc : isComplete q.len
  · cases hrow : packetRow q.pkt0 q.pkt1 q.pkt2 q.pkt3 with
    | none => rw [if_pos hc, Option.getD_none]
    | some i =>
      rw [if_pos hc, Option.getD_some]
      exact packetRowsAgreeWithPktDec s _ _ _ _ _ i r (of_decide_eq_true hc) hrow
  · rw [if_neg hc]

/-- Settles O32: the short packet first, then the closed form of the raw decoder. -/
theorem pktDecReportsTheFirstFailure : Obligations.PktDecReportsTheFirstFailure := by
  refine ⟨fun s q r h => presents_decode_iff_pktDec h, fun s b0 b1 b2 b3 len => ?_⟩
  by_cases h : len.toNat < 2
  · rw [if_pos h]
    exact shortPacketsAreMissingData s b0 b1 b2 b3 len h
  · rw [if_neg h, presents_pktDec_iff (by omega), rawDecode_eq_decodedOrFirstFailure]
    cases decodedOrFirstFailure s.params.decodeKinds b1 b2 b3 (min len.toNat 4 - 1) <;> rfl

/-! ### What PKT_DEC does not read -/

theorem replyPktDec_congr_cable {b0 b0' : Byte} (h : hiNibble b0 = hiNibble b0') (kinds : List Kind)
    (b1 b2 b3 : Byte) (len : U3) : replyPktDec kinds b0 b1 b2 b3 len = replyPktDec kinds b0' b1 b2 b3 len := by
  simp only [replyPktDec, h]

theorem presents_pktDec_of_same_cable {b0 b0' b1 b2 b3 : Byte} {len : U3} {s : State} {r : Response}
    (h : hiNibble b0 = hiNibble b0') (hr : Presents (.pktDec b0 b1 b2 b3 len) s r) :
    Presents (.pktDec b0' b1 b2 b3 len) s r := by
  rw [presents_iff, reply] at hr ⊢
  rw [← replyPktDec_congr_cable h, hr]

/-- Settles O34: the header is read through its top nibble alone, and a request with `op` 0x5 answers as PKT_DEC. -/
theorem pktDecIgnoresTheCin : Obligations.PktDecIgnoresTheCin := by
  refine ⟨fun s b0 b0' b1 b2 b3 len r => presents_pktDec_of_same_cable, fun s q q' r hop hq hcable hr => ?_⟩
  rw [presents_decode_iff_pktDec hop] at hr
  rw [hq]
  exact (presents_decode_iff_pktDec (q := { q with pkt0 := q'.pkt0 }) hop).2 (presents_pktDec_of_same_cable hcable hr)

/-- The raw decoder reads its bytes through `Get` alone (R150). -/
theorem rawDecode_congr {r r' : List Byte} {n : Nat} (h : getByte r n = getByte r' n) (kinds : List Kind) :
    rawDecode kinds r n = rawDecode kinds r' n := by
  have hbody : ∀ k chan, decodeBody k chan r n = decodeBody k chan r' n := fun k chan => by
    cases k <;> simp only [decodeBody, decodeNoteBody, decodePairBody, decodeSingleBody, h]
  simp only [rawDecode, h, hbody]

/-- `Get` on three lanes does not see a lane at or past the count (R40). -/
theorem getByte_congr {n : Nat} {b0 b1 b2 c0 c1 c2 : Byte} (h0 : 0 < n → b0 = c0) (h1 : 1 < n → b1 = c1)
    (h2 : 2 < n → b2 = c2) : getByte [b0, b1, b2] n = getByte [c0, c1, c2] n := by
  funext i
  by_cases hi : i < n
  · match i with
    | 0 => rw [h0 hi]; rfl
    | 1 => rw [h1 hi]; rfl
    | 2 => rw [h2 hi]; rfl
    | _ + 3 => rfl
  · rw [getByte_of_le (by omega), getByte_of_le (by omega)]

/-- Settles O35: an outcome is an OK with a decoded message or one of the raw decoder's errors, and a lane is read
through `Get`. -/
theorem pktDecIsTotal : Obligations.PktDecIsTotal := by
  refine ⟨fun s b0 b1 b2 b3 len => ?_, fun s b0 b1 b2 b3 c0 c1 c2 c3 len r h0 h1 h2 h3 hr => ?_⟩
  · by_cases hlen : len.toNat < 2
    · exact .inr (.inl (shortPacketsAreMissingData s b0 b1 b2 b3 len hlen))
    · simp only [presents_pktDec_iff (Nat.not_lt.1 hlen)]
      cases hd : rawDecode s.params.decodeKinds [b1, b2, b3] (min len.toNat 4 - 1) with
      | ok m => exact .inl ⟨hiNibble b0, m, rfl⟩
      | error e =>
        rcases rawDecode_error_cases hd with rfl | rfl | rfl
        · exact .inr (.inl rfl)
        · exact .inr (.inr (.inl ⟨b1, rfl⟩))
        · exact .inr (.inr (.inr ⟨b2, rfl⟩))
  · by_cases hlen : len.toNat < 2
    · have hb := presents_iff.1 (shortPacketsAreMissingData s b0 b1 b2 b3 len hlen)
      rw [presents_iff, hb] at hr
      rw [← hr]
      exact shortPacketsAreMissingData s c0 c1 c2 c3 len hlen
    · have hget : getByte [b1, b2, b3] (min len.toNat 4 - 1) = getByte [c1, c2, c3] (min len.toNat 4 - 1) :=
        getByte_congr (fun _ => h1 (by omega)) (fun _ => h2 (by omega)) fun _ => h3 (by omega)
      rw [presents_pktDec_iff (by omega)] at hr ⊢
      rw [← h0 (by omega), ← rawDecode_congr hget, hr]

/-! ### Errors -/

/-- RAW_DEC presents an error only where the raw decoder raises it. -/
theorem rawDecode_error_of_presents {b0 b1 b2 : Byte} {len : U3} {s : State} {e : Err}
    (h : Presents (.rawDec b0 b1 b2 len) s (.err e)) :
    rawDecode s.params.decodeKinds [b0, b1, b2] (validCount len 3) = .error e := by
  rw [presents_iff, reply, replyRawDec] at h
  exact eq_error_of_bind_pure (responseOf_eq_err h)

/-- Settles O36: RAW_DEC's count is the one PKT_DEC hands to the raw decoder, whose payloads are its first two bytes. -/
theorem pktDecPropagatesRawErrors : Obligations.PktDecPropagatesRawErrors := by
  intro s b0 b1 b2 b3 len n e hlen hn hraw
  have hcount : validCount n 3 = min len.toNat 4 - 1 := by unfold validCount; omega
  have hd := rawDecode_error_of_presents hraw
  refine ⟨?_, ?_⟩
  · rw [presents_pktDec_iff hlen, ← hcount, hd]
    rfl
  · rcases rawDecode_error_cases hd with rfl | rfl | rfl
    · exact ⟨nofun, nofun⟩
    · exact ⟨fun _ h => (Err.invalidEventType.inj h).symm, nofun⟩
    · exact ⟨nofun, fun _ h => (Err.invalidNote.inj h).symm⟩

/-! ### The decoded message -/

/-- The message that the data bytes of a kind decode to: both saturated, the second only where the kind has one
(R152 to R158). -/
def clampedMessage (k : Kind) (chan : U4) (d1 d2 : Byte) : Message :=
  ⟨k, chan, saturated d1, if nData k = 2 then saturated d2 else 0⟩

theorem eq_clampedMessage_of_decodeBody_ok {k : Kind} {chan : U4} {b0 b1 b2 : Byte} {n : Nat} {m : Message}
    (h : decodeBody k chan [b0, b1, b2] n = .ok m) : m = clampedMessage k chan b1 b2 := by
  rw [decodeBody_eq, ← clampedMessage] at h
  split_ifs at h
  cases h
  rfl

/-- Where the raw decoder succeeds: the status nibble is that of a decoded kind, and the message is that kind's. -/
theorem exists_kind_of_rawDecode_ok {kinds : List Kind} {b0 b1 b2 : Byte} {n : Nat} {m : Message}
    (h : rawDecode kinds [b0, b1, b2] n = .ok m) :
    ∃ k ∈ kinds, kindNibble k = hiNibble b0 ∧ m = clampedMessage k (loNibble b0) b1 b2 := by
  by_cases hn : n < 1
  · rw [rawDecode_of_no_byte hn] at h
    cases h
  · cases hr : recognised kinds (hiNibble b0) with
    | none =>
      rw [rawDecode_of_not_recognised (recognised_eq_none.1 hr) (by omega)] at h
      cases h
    | some k =>
      rw [rawDecode_of_recognised hr (by omega)] at h
      obtain ⟨hk, hs⟩ := recognised_eq_some.1 hr
      exact ⟨k, hk, hs, eq_clampedMessage_of_decodeBody_ok h⟩

/-- Where PKT_DEC succeeds on a whole packet: the cable is the header's top nibble, and the status nibble is that of a
decoded kind whose message is presented. -/
theorem exists_kind_of_presents_pktDec {b0 b1 b2 b3 : Byte} {s : State} {cable : U4} {m : Message}
    (h : Presents (.pktDec b0 b1 b2 b3 4) s (.ok (.cabled cable m))) :
    cable = hiNibble b0 ∧ ∃ k ∈ s.params.decodeKinds, kindNibble k = hiNibble b1 ∧
      m = clampedMessage k (loNibble b1) b2 b3 := by
  rw [presents_pktDec_iff (by decide)] at h
  obtain ⟨_, hm, ⟨⟩⟩ := exists_ok_of_responseOf_map h
  exact ⟨rfl, exists_kind_of_rawDecode_ok hm⟩

/-- PKT_DEC of a decoded kind, with enough valid bytes and a note in range, presents the cable and the message
(R194). -/
theorem presents_pktDec_statusByte {k : Kind} {d1 : Byte} {len : U3} {s : State} (hk : k ∈ s.params.decodeKinds)
    (hlen : 2 + nData k ≤ len.toNat) (hnote : hasNote k = true → d1.toNat ≤ 127) (b0 : Byte) (chan : U4) (d2 : Byte) :
    Presents (.pktDec b0 (statusByte k chan) d1 d2 len) s
      (.ok (.cabled (hiNibble b0) (clampedMessage k chan d1 d2))) := by
  have hd := nData_eq_one_or_two k
  rw [presents_pktDec_iff (by omega), rawDecode_statusByte_three hk, decodeBody_eq_ok (by omega) hnote]
  rfl

/-- Settles O33: the header and the status byte are pairs of nibbles. -/
theorem pktDecUnframesTheMessage : Obligations.PktDecUnframesTheMessage := by
  intro s cable cin chan k d1 d2 len hk hlen hnote
  have hcable : hiNibble (cable ++ cin) = cable := hiNibble_joinNibbles cable cin
  have h := presents_pktDec_statusByte hk hlen hnote (cable ++ cin) chan d2
  rwa [hcable] at h

/-! ### Encoding, then decoding -/

/-- The bytes a message is written as decode to the same message (R30, R149). -/
theorem sameMessage_clampedMessage_zextSeven (k : Kind) (chan : U4) (d1 d2 : U7) :
    sameMessage (clampedMessage k chan (zextSeven d1) (if nData k = 2 then zextSeven d2 else 0)) ⟨k, chan, d1, d2⟩ := by
  refine ⟨rfl, rfl, saturated_zextSeven d1, fun h => ?_⟩
  have hk : nData k = 2 := h
  simp only [clampedMessage, if_pos hk, saturated_zextSeven]

theorem two_add_nData_le_four (k : Kind) : 2 + nData k ≤ (4 : U3).toNat := by
  cases k <;> decide

/-- Settles O38: the status byte names the kind, a data value is in range as a note, and saturation keeps it. -/
theorem packetRoundTrip : Obligations.PacketRoundTrip := by
  intro s s' cable k chan d1 d2 hp hk
  rw [hp] at hk
  have hdec := presents_pktDec_statusByte hk (two_add_nData_le_four k) (fun _ => zextSeven_toNat_le d1)
    (joinNibbles cable (kindNibble k)) chan (if nData k = 2 then zextSeven d2 else 0)
  rw [hiNibble_joinNibbles] at hdec
  exact ⟨_, _, _, _, _, presents_pktEnc_kindNibble k cable chan d1 d2 s, hdec,
    (presents_decode_iff_pktDec rfl).2 hdec, sameMessage_clampedMessage_zextSeven k chan d1 d2⟩

/-- PKT_ENC ends in OK only for a kind, whose packet it presents. -/
theorem exists_kind_of_presents_pktEnc {cable kind chan : U4} {d1 d2 : U7} {s : State} {o : Outputs}
    (h : Presents (.pktEnc cable kind chan d1 d2) s (.ok o)) :
    ∃ k, kindNibble k = kind ∧ o = .packet (joinNibbles cable (kindNibble k)) (statusByte k chan) (zextSeven d1)
      (if nData k = 2 then zextSeven d2 else 0) 4 := by
  rw [presents_iff, reply] at h
  cases hk : kindOfNibble kind with
  | none =>
    rw [replyPktEnc_of_no_kind hk] at h
    cases h
  | some k =>
    obtain rfl := kindNibble_of_kindOfNibble hk
    rw [replyPktEnc_kindNibble] at h
    cases h
    exact ⟨k, rfl, rfl⟩

/-- Settles O39: header and status byte of an encoded packet carry one nibble, from which PKT_DEC takes the kind; the
counterexample of R200 is decoded and encoded. -/
theorem encodedPacketReproducesItsCin : Obligations.EncodedPacketReproducesItsCin := by
  refine ⟨fun s cable kind chan d1 d2 b0 b1 b2 b3 n c m len henc hdec => ?_, fun s hk => ?_⟩
  · obtain ⟨k, -, ⟨⟩⟩ := exists_kind_of_presents_pktEnc henc
    obtain ⟨-, k', -, hk', rfl⟩ := exists_kind_of_presents_pktDec hdec
    have hcin : loNibble (joinNibbles cable (kindNibble k)) = kindNibble k' := by
      rw [loNibble_joinNibbles, hk', hiNibble_statusByte]
    rw [hcin]
    exact (cinOfAKindIsItsClassification s k' len).2
  · exact ⟨clampedMessage .noteOn 0 0x24 0x7F,
      presents_pktDec_statusByte hk (by decide) (fun _ => by decide) 0x08 0 0x7F, rfl,
      presents_pktEnc_kindNibble .noteOn 0 0 0x24 0x7F s⟩

/-! ### Decoding, then encoding -/

/-- Saturation keeps a byte exactly when it is in range (R160). -/
theorem zextSeven_saturated_eq_iff (b : Byte) : zextSeven (saturated b) = b ↔ b.toNat ≤ 127 := by
  revert b; decide

theorem joinNibbles_hiNibble_eq_iff (b : Byte) (n : U4) : joinNibbles (hiNibble b) n = b ↔ loNibble b = n := by
  revert b n; decide

/-- A canonical packet is one whose header, data bytes and padding are as PKT_ENC of its message writes them (R201). -/
theorem canonical_iff {kinds : List Kind} {k : Kind} {b1 : Byte} (hk : k ∈ kinds) (hs : kindNibble k = hiNibble b1)
    (b0 b2 b3 : Byte) :
    Canonical kinds b0 b1 b2 b3 ↔ joinNibbles (hiNibble b0) (kindNibble k) = b0 ∧ zextSeven (saturated b2) = b2 ∧
      (if nData k = 2 then zextSeven (saturated b3) else 0) = b3 := by
  have hpad : ((if nData k = 2 then zextSeven (saturated b3) else 0) = b3) ↔
      if nData k = 2 then b3.toNat ≤ 127 else b3 = 0 := by
    split_ifs
    · exact zextSeven_saturated_eq_iff b3
    · exact eq_comm
  rw [joinNibbles_hiNibble_eq_iff, zextSeven_saturated_eq_iff, hpad, hs]
  constructor
  · rintro ⟨hcin, k', -, hs', hb2, hb3⟩
    obtain rfl := kindNibble_inj.1 (hs.trans hs')
    exact ⟨hcin, hb2, hb3⟩
  · rintro ⟨hcin, hb2, hb3⟩
    exact ⟨hcin, k, hk, hs.symm, hb2, hb3⟩

/-- PKT_ENC of the message a packet decodes to writes its cable and status byte again, the kind's nibble as the CIN, the
saturated data bytes, and zero padding (R201). -/
theorem presents_pktEnc_clampedMessage {k : Kind} {b1 : Byte} (hs : kindNibble k = hiNibble b1) (cable : U4)
    (b2 b3 : Byte) (s : State) :
    Presents (.pktEnc cable (kindNibble k) (loNibble b1) (clampedMessage k (loNibble b1) b2 b3).d1
        (clampedMessage k (loNibble b1) b2 b3).d2) s
      (.ok (.packet (joinNibbles cable (kindNibble k)) b1 (zextSeven (saturated b2))
        (if nData k = 2 then zextSeven (saturated b3) else 0) 4)) := by
  have hd2 : (if nData k = 2 then zextSeven (clampedMessage k (loNibble b1) b2 b3).d2 else 0) =
      if nData k = 2 then zextSeven (saturated b3) else 0 := by
    split_ifs with hk
    · rw [clampedMessage, if_pos hk]
    · rfl
  have h := presents_pktEnc_kindNibble k cable (loNibble b1) (clampedMessage k (loNibble b1) b2 b3).d1
    (clampedMessage k (loNibble b1) b2 b3).d2 s
  rwa [statusByte_loNibble hs, hd2] at h

/-- A canonical packet decodes (R201). -/
theorem exists_kind_of_canonical {b0 b1 b2 b3 : Byte} {s : State} (h : Canonical s.params.decodeKinds b0 b1 b2 b3) :
    ∃ k ∈ s.params.decodeKinds, kindNibble k = hiNibble b1 ∧
      Presents (.pktDec b0 b1 b2 b3 4) s (.ok (.cabled (hiNibble b0) (clampedMessage k (loNibble b1) b2 b3))) := by
  obtain ⟨-, k, hk, hs, hb2, -⟩ := h
  have hdec := presents_pktDec_statusByte hk (two_add_nData_le_four k) (fun _ => hb2) b0 (loNibble b1) b3
  rw [statusByte_loNibble hs.symm] at hdec
  exact ⟨k, hk, hs.symm, hdec⟩

/-- Settles O40: the packet made from a decoded one is known byte by byte, and equals it exactly when that one is
canonical. -/
theorem canonicalPacketsAreTheFixedPoints : Obligations.CanonicalPacketsAreTheFixedPoints := by
  refine ⟨fun s b0 b1 b2 b3 hcan => ?_, fun s b0 b1 b2 b3 cable m hcan hdec => ?_⟩
  · obtain ⟨k, hk, hs, hdec⟩ := exists_kind_of_canonical hcan
    obtain ⟨h0, h2, h3⟩ := (canonical_iff hk hs b0 b2 b3).1 hcan
    have henc := presents_pktEnc_clampedMessage hs (hiNibble b0) b2 b3 s
    rw [h0, h2, h3] at henc
    exact ⟨_, _, hdec, henc⟩
  · obtain ⟨rfl, k, hk, hs, rfl⟩ := exists_kind_of_presents_pktDec hdec
    refine ⟨_, _, _, presents_pktEnc_clampedMessage hs (hiNibble b0) b2 b3 s, fun heq => hcan ?_, rfl, hs, rfl,
      zextSeven_eq_append _, ?_⟩
    · obtain ⟨h0, h23⟩ := Prod.mk.inj heq
      exact (canonical_iff hk hs b0 b2 b3).2 ⟨h0, Prod.mk.inj h23⟩
    · rw [zextSeven_eq_append]
      rfl

end Sys2Proof.Proofs.PacketCodec

/-! The statements of spec/60_exceptions.md: the error code of every response (R221, R222), the reserved operations
(R225), the outcomes of each operation (R226), and that no outcome stops the unit (R224, R230). -/

namespace Sys2Proof.Proofs.Exceptions

open Sys2Proof Sys2Proof.Machine Sys2Proof.Safety Sys2Proof.Proofs.Scope Sys2Proof.Proofs.Clocking
open Sys2Proof.Proofs.Encoding Sys2Proof.Proofs.Primitives Sys2Proof.Proofs.Classifier Sys2Proof.Proofs.RawCodec
open Sys2Proof.Proofs.PacketCodec

/-! ### Every response -/

theorem errCode_ne_seven (r : Response) : errCode r ≠ 7 := by
  cases r with
  | ok o => simp [errCode]
  | err e => cases e <;> simp [errCode, errorCode]
  | fault f => cases f <;> simp [errCode, faultCode]

/-- Settles O12: an instruction does nothing but present its reply, and a driven response shows its own outcome. -/
theorem everyResponseDrivesItsErrorCode : Obligations.EveryResponseDrivesItsErrorCode := by
  intro i s t h
  rw [exec_eq] at h
  cases h
  obtain ⟨hvalid, hshows⟩ := shows_drive (Config.freePorts s.draws) (reply s.params i)
  exact ⟨reply s.params i, rfl, hvalid, hshows, errCode_ne_seven _⟩

/-- Settles O46: a cycle answers a request with a response of some kind, is quiet, or is unsettled, and each is a next
state. -/
theorem noStepStops : Obligations.NoStepStops :=
  exists_step

/-! ### Reserved operations -/

theorem reservedOp_cases {op : U4} (h : op = 0 ∨ 0xA ≤ op.toNat) :
    op = 0x0 ∨ op = 0xA ∨ op = 0xB ∨ op = 0xC ∨ op = 0xD ∨ op = 0xE ∨ op = 0xF := by
  revert op; decide

/-- A reserved `op` is answered before any operand is looked at (R225, R227). -/
theorem reply_decode_of_reserved {q : Request} (h : q.op = 0 ∨ 0xA ≤ q.op.toNat) (p : Params) :
    reply p (decode q) = .fault (.illegalOp q.op) := by
  rcases reservedOp_cases h with hop | hop | hop | hop | hop | hop | hop <;> rw [decode, hop] <;> rfl

/-- Settles O44: the seven values of `op` decode to the seven rows, and each row's reply is its own fault. -/
theorem reservedOpsAreIllegal : Obligations.ReservedOpsAreIllegal :=
  ⟨fun s _ h => presents_iff.2 (reply_decode_of_reserved h s.params),
    fun s => ⟨presents_reply .reservedOp0 s, presents_reply .reservedOpA s, presents_reply .reservedOpB s,
      presents_reply .reservedOpC s, presents_reply .reservedOpD s, presents_reply .reservedOpE s,
      presents_reply .reservedOpF s⟩⟩

/-! ### The outcomes of each operation -/

/-- No request reports two outcomes (R227). -/
theorem eq_of_presents {i : Instr} {s : State} {r r' : Response} (h : Presents i s r) (h' : Presents i s r') : r = r' :=
  (presents_iff.1 h).symm.trans (presents_iff.1 h')

theorem classCin_error_cases {c : U4} {len : U2} {d : Defect} (h : classCin c len = .error d) :
    d = .undeterminedLength ∨ d = .unknownClass := by
  rw [classCin_eq_ite, systemCommonCin_eq_ite, sysexEndCin_eq_ite] at h
  split_ifs at h <;> cases h
  · exact .inl rfl
  · exact .inl rfl
  · exact .inr rfl

theorem mayEnd_of_classify {c : U4} {len : U2} {s : State} {r : Response} (h : Presents (.classify c len) s r) :
    mayEnd 0x1 r := by
  rw [presents_classify_iff] at h
  subst h
  cases hc : classCin c len with
  | ok cin => exact .inl ⟨cin, rfl⟩
  | error d =>
    rcases classCin_error_cases hc with rfl | rfl
    · exact .inr (.inl rfl)
    · exact .inr (.inr rfl)

theorem mayEnd_of_rawEnc {kind chan : U4} {d1 d2 : U7} {s : State} {r : Response}
    (h : Presents (.rawEnc kind chan d1 d2) s r) : mayEnd 0x2 r := by
  obtain rfl := eq_of_presents h (rawEncWritesStatusAndData.2 s kind chan d1 d2)
  split_ifs
  · exact .inr rfl
  · exact .inl ⟨_, _, _, _, rfl⟩
  · exact .inl ⟨_, _, _, _, rfl⟩

theorem mayEnd_of_rawDec {b0 b1 b2 : Byte} {len : U3} {s : State} {r : Response}
    (h : Presents (.rawDec b0 b1 b2 len) s r) : mayEnd 0x3 r := by
  rw [presents_rawDec_iff] at h
  subst h
  cases hd : rawDecode s.params.decodeKinds [b0, b1, b2] (validCount len 3) with
  | ok m => exact .inl ⟨m, rfl⟩
  | error e =>
    rcases rawDecode_error_cases hd with rfl | rfl | rfl
    · exact .inr (.inl rfl)
    · exact .inr (.inr (.inl ⟨b0, rfl⟩))
    · exact .inr (.inr (.inr ⟨b1, rfl⟩))

theorem mayEnd_of_pktEnc {cable kind chan : U4} {d1 d2 : U7} {s : State} {r : Response}
    (h : Presents (.pktEnc cable kind chan d1 d2) s r) : mayEnd 0x4 r := by
  obtain rfl := eq_of_presents h (pktEncFramesTheMessage.2 s cable kind chan d1 d2)
  split
  · exact .inr rfl
  · exact .inl ⟨_, _, _, _, _, rfl⟩

theorem mayEnd_of_pktDec {b0 b1 b2 b3 : Byte} {len : U3} {s : State} {r : Response}
    (h : Presents (.pktDec b0 b1 b2 b3 len) s r) : mayEnd 0x5 r := by
  rcases pktDecIsTotal.1 s b0 b1 b2 b3 len with ⟨cable, m, hr⟩ | hr | ⟨b, hr⟩ | ⟨b, hr⟩ <;>
    obtain rfl := eq_of_presents h hr
  · exact .inl ⟨cable, m, rfl⟩
  · exact .inr (.inl rfl)
  · exact .inr (.inr (.inl ⟨b, rfl⟩))
  · exact .inr (.inr (.inr ⟨b, rfl⟩))

theorem mayEnd_of_noteStrict {b : Byte} {s : State} {r : Response} (h : Presents (.noteStrict b) s r) :
    mayEnd 0x6 r := by
  obtain rfl := eq_of_presents h (noteStrictAcceptsOrRejects.2 s b)
  split
  · exact .inl ⟨b, rfl⟩
  · exact .inr ⟨b, rfl⟩

theorem mayEnd_of_cableStrict {b : Byte} {s : State} {r : Response} (h : Presents (.cableStrict b) s r) :
    mayEnd 0x8 r := by
  obtain rfl := eq_of_presents h (cableStrictAcceptsOrRejects.2.1 s b)
  split
  · exact .inl ⟨b, rfl⟩
  · exact .inr ⟨b, rfl⟩

/-- The rows of R226's table: the nine operations and the reserved values of `op`. -/
theorem op_cases (op : U4) :
    op = 0x1 ∨ op = 0x2 ∨ op = 0x3 ∨ op = 0x4 ∨ op = 0x5 ∨ op = 0x6 ∨ op = 0x7 ∨ op = 0x8 ∨ op = 0x9 ∨
      (op = 0 ∨ 0xA ≤ op.toNat) := by
  revert op; decide

theorem mayEnd_illegalOp {op : U4} (h : op = 0 ∨ 0xA ≤ op.toNat) : mayEnd op (.fault (.illegalOp op)) := by
  rcases reservedOp_cases h with rfl | rfl | rfl | rfl | rfl | rfl | rfl <;> rfl

/-- Settles O13: `op` picks the operation, and each operation ends in the outcomes of its row; a PKT_DEC request ends
as PKT_DEC does, whichever row it decodes to. -/
theorem operationsEndOnlyInTheirOutcomes : Obligations.OperationsEndOnlyInTheirOutcomes := by
  intro q s r h
  rcases op_cases q.op with hop | hop | hop | hop | hop | hop | hop | hop | hop | hres
  · rw [classifyGivesTheTabledCin.1 q hop] at h
    exact hop ▸ mayEnd_of_classify h
  · rw [rawEncWritesStatusAndData.1 q hop] at h
    exact hop ▸ mayEnd_of_rawEnc h
  · rw [rawDecReportsTheFirstFailure.1 q hop] at h
    exact hop ▸ mayEnd_of_rawDec h
  · rw [pktEncFramesTheMessage.1 q hop] at h
    exact hop ▸ mayEnd_of_pktEnc h
  · rw [presents_decode_iff_pktDec hop] at h
    exact hop ▸ mayEnd_of_pktDec h
  · rw [noteStrictAcceptsOrRejects.1 q hop] at h
    exact hop ▸ mayEnd_of_noteStrict h
  · rw [sevenBitClampSaturates.1 q hop] at h
    exact hop ▸ ⟨_, (presents_iff.1 h).symm⟩
  · rw [cableStrictAcceptsOrRejects.1 q hop] at h
    exact hop ▸ mayEnd_of_cableStrict h
  · rw [channelOfStatusMasks.1 q hop] at h
    exact hop ▸ ⟨_, (presents_iff.1 h).symm⟩
  · rw [presents_iff, reply_decode_of_reserved hres] at h
    exact h ▸ mayEnd_illegalOp hres

end Sys2Proof.Proofs.Exceptions

/-! The statements of spec/70_reset_and_hazards.md: a reset edge (R250), back-to-back requests to a combinational unit
(R254, R258), and inputs that change while its outputs are sampled (R255). -/

namespace Sys2Proof.Proofs.Hazards

open Sys2Proof Sys2Proof.Machine Sys2Proof.Safety Sys2Proof.Proofs.Clocking

/-! ### Back-to-back requests -/

/-- One cycle of a combinational unit spends one presented request and records the response that request has alone. -/
theorem step_of_presentCycle {s : State} {q : Request} {rest : List Cycle} (hl : s.params.latency = 0)
    (hh : s.host = presentCycle q :: rest) :
    ∃ t, step s = .next t ∧ t.params = s.params ∧ t.host = rest ∧
      t.responses.map some = s.responses.map some ++ [answer? s.params (decode q)] := by
  obtain ⟨t, r, ht, hr, (ha : answer? s.params (decode q) = some r), -⟩ :=
    (combinationalCycle s _ rest hl hh).1 rfl rfl
  obtain ⟨hp, -, hrest⟩ := step_frame ht
  exact ⟨t, ht, hp, by rw [hrest, hh]; rfl, by rw [hr, List.map_append, ha]; rfl⟩

/-- Settles O52, by induction on the requests: a step keeps the parameters, and they alone decide what a request is
answered, so the rest of the list is served as it would be from the start. -/
theorem combinationalRequestsDoNotInterfere : Obligations.CombinationalRequestsDoNotInterfere := by
  intro qs
  induction qs with
  | nil => exact fun s rest _ hh => ⟨s, rfl, hh, rfl, by simp⟩
  | cons q qs ih =>
    intro s rest hl hh
    obtain ⟨u, hu, hp, huh, hur⟩ := step_of_presentCycle hl hh
    obtain ⟨t, ht, hth, htp, htr⟩ := ih u rest (hp ▸ hl) huh
    refine ⟨t, (run_succ_of_step qs.length hu).trans ht, hth, htp.trans hp, ?_⟩
    rw [htr, hur, hp, List.append_assoc]
    rfl

/-! ### Reset -/

/-- Settles O48: a combinational cycle never reads `rst`; a reset edge of a pipelined unit is a quiet cycle that leaves
nothing in flight. -/
theorem resetEdgeDropsThePipeline : Obligations.ResetEdgeDropsThePipeline := by
  refine ⟨fun s c rest hl => ?_, fun s c rest hl hh hr => ?_⟩
  · rw [step_combinational (by exact hl), step_combinational (by exact hl)]
    rfl
  · have hs := step_reset hl (by rw [now_of_host_cons hh, hr])
    rw [later_of_host_cons hh] at hs
    exact ⟨_, hs, rfl, rfl, rfl, rfl, rfl⟩

/-! ### Inputs that are not held -/

/-- Settles O49: the cycle answers no request, and an unsettled cycle touches only the ports. -/
theorem unheldInputsRecordNothing : Obligations.UnheldInputsRecordNothing := by
  intro s c rest hl hh hv hc
  have hs := step_combinational hl
  have hn : serviceNow s.now = .unsettled := by simp [now_of_host_cons hh, serviceNow, hv, hc]
  rw [hn, later_of_host_cons hh] at hs
  exact ⟨_, hs, rfl, rfl, rfl⟩

end Sys2Proof.Proofs.Hazards
